-- ==== Sys2Proof/Word.lean ====
section
/-! DEFINITION. The word and byte-string types (00_scope.md R7, R8). -/

namespace Sys2Proof

/-- A byte: 8 bits, unsigned (R8). -/
abbrev Byte := BitVec 8

/-- The engine's 32-bit unsigned quantity (R7): V0, V1, SUM, a subkey. -/
abbrev Word := BitVec 32

/-- A block or an IV: a byte string of length 8, `b[0]` the first byte (R8). -/
abbrev Block := Vector Byte 8

/-- A key: a byte string of length 16, `k[0]` the first byte (R8). -/
abbrev Key := Vector Byte 16

end Sys2Proof
end

