-- ==== Sys2Proof/Config.lean ====
section
/-! DEFINITION. What is fixed for the design (00_scope.md R5, 10_state.md R29) and the free values: what the
spec leaves unspecified, as constants without a body. -/

namespace Sys2Proof.Config

/-- `key_size` (R5, R29). -/
abbrev keyBits : Nat := 128

/-- `block_size` (R5, R29). -/
abbrev blockBits : Nat := 64

/-- `key_sizes` (R5, R29): the set {128}. -/
abbrev keySizes : List Nat := [128]

/-- `KEY_BYTES` (R5): "128/8 = 16". -/
abbrev keyBytes : Nat := keyBits / 8

/-- `BLOCK_BYTES` (R5): "64/8 = 8". -/
abbrev blockBytes : Nat := blockBits / 8

/-- `IV_BYTES` (R5): "byte sequence, same size as a Block". -/
abbrev ivBytes : Nat := blockBytes

/-- `NAME` (R5, R29): OPEN, its value is not in the source, and no command returns it (log 15). -/
opaque name : String

/-- The four constant members of the capability contracts a platform may expose (R29). -/
structure Capabilities where
  keySize : Nat
  blockSize : Nat
  keySizes : List Nat
  name : String
  deriving DecidableEq, Repr

/-- The values of the capability members (R29). -/
def capabilities : Capabilities :=
  { keySize := keyBits, blockSize := blockBits, keySizes := keySizes, name := name }

/-- KEY where the spec says it is unspecified: after reset (R31). DESIGN CHOICE, log 4. The argument is the
model's counter of drawn free values. -/
opaque freeKey : Nat → Key

/-- V0 where the spec says it is unspecified: after reset (R31) and after a response (R24). DESIGN CHOICE,
logs 5 and 6. -/
opaque freeV0 : Nat → Word

/-- V1 where the spec says it is unspecified (R24, R31). DESIGN CHOICE, logs 5 and 6. -/
opaque freeV1 : Nat → Word

/-- SUM where the spec says it is unspecified (R24, R31). DESIGN CHOICE, logs 5 and 6. -/
opaque freeSum : Nat → Word

/-- RND where the spec says it is unspecified (R31); it stays within 0..32 (R20). DESIGN CHOICE, logs 5
and 6. -/
opaque freeRnd : Nat → Fin 33

end Sys2Proof.Config
end

