-- ==== Sys2Proof/Syntax.lean ====
section
/-! DEFINITION. Commands as the host hands them over, and the instructions they decode to: one constructor per
row of spec/opcode_table.json (30_encoding.md R60 to R69). -/

namespace Sys2Proof

/-- A command: the 32-bit command word and the two operand buses (30_encoding.md R60, R65; widths R43). It is
"this hardware's instruction" (00_scope.md R12). -/
structure Command where
  /-- The command word CMD. -/
  cmd : BitVec 32
  /-- The data operand bus D. -/
  d : BitVec 128
  /-- The IV operand bus. -/
  iv : BitVec 64
  deriving DecidableEq, Repr

/-- The mode variants, "a closed set" (30_encoding.md R62). -/
inductive CipherMode where
  | ecb
  | cbc
  | cfb
  | ofb
  deriving DecidableEq, Repr

/-- The fields of a command beside OP and MODE, and its operands (30_encoding.md R60). Which of them an
instruction reads is the instruction's own matter (R67 (d)). -/
structure Args where
  /-- IVP: an IV operand is present. -/
  ivp : Bool
  /-- The reserved bits CMD[15:9]: the core ignores them (R67 (c)). -/
  reserved : BitVec 7
  /-- DLEN: the declared length of D in bytes (R64). -/
  dlen : BitVec 8
  /-- IVLEN: the declared length of IV in bytes (R64). -/
  ivlen : BitVec 8
  /-- The bus D. -/
  d : BitVec 128
  /-- The bus IV. -/
  iv : BitVec 64
  deriving DecidableEq, Repr

/-- The instructions: one constructor per row of spec/opcode_table.json (30_encoding.md R69). `mode` is the
MODE field of the rows whose mask leaves it open; SETKEY and ENCIV do not read it (R67 (d)). -/
inductive Instr where
  /-- SETKEY (40_key_setup.md R80). -/
  | setkey (mode : BitVec 4) (a : Args)
  /-- ENC.ECB (42_block_modes.md R113). -/
  | encEcb (a : Args)
  /-- ENC.CBC (R114). -/
  | encCbc (a : Args)
  /-- ENC.CFB (R115). -/
  | encCfb (a : Args)
  /-- ENC.OFB (R116). -/
  | encOfb (a : Args)
  /-- DEC.ECB (R117). -/
  | decEcb (a : Args)
  /-- DEC.CBC (R118). -/
  | decCbc (a : Args)
  /-- DEC.CFB (R119). -/
  | decCfb (a : Args)
  /-- DEC.OFB (R120). -/
  | decOfb (a : Args)
  /-- ENCIV (41_core_transform.md R98). -/
  | enciv (mode : BitVec 4) (a : Args)
  /-- ENC.BADMODE (42_block_modes.md R121): `mode` is the code that is no variant. -/
  | encBadmode (mode : BitVec 4) (a : Args)
  /-- DEC.BADMODE (R121). -/
  | decBadmode (mode : BitVec 4) (a : Args)
  deriving DecidableEq, Repr

/-- The fields and operands of an instruction. -/
def Instr.args : Instr → Args
  | .setkey _ a => a
  | .encEcb a => a
  | .encCbc a => a
  | .encCfb a => a
  | .encOfb a => a
  | .decEcb a => a
  | .decCbc a => a
  | .decCfb a => a
  | .decOfb a => a
  | .enciv _ a => a
  | .encBadmode _ a => a
  | .decBadmode _ a => a

end Sys2Proof
end

