-- ==== Sys2Proof/Decode.lean ====
section
/-! DEFINITION. Decoding of command words, total (30_encoding.md R60 to R69), the encoder written from the same
tables, and the command table as data. -/

namespace Sys2Proof

/-- CMD.OP = CMD[3:0] (R60). -/
def opField (cmd : BitVec 32) : BitVec 4 := cmd.extractLsb' 0 4

/-- CMD.MODE = CMD[7:4] (R60). -/
def modeField (cmd : BitVec 32) : BitVec 4 := cmd.extractLsb' 4 4

/-- The other fields of the command word (R60) with the operand buses (R65). -/
def argsOf (c : Command) : Args :=
  { ivp := c.cmd.getLsbD 8
    reserved := c.cmd.extractLsb' 9 7
    dlen := c.cmd.extractLsb' 16 8
    ivlen := c.cmd.extractLsb' 24 8
    d := c.d
    iv := c.iv }

/-- The mode codes (R62): 0x4..0xF are no variant. -/
def modeOfCode (code : BitVec 4) : Option CipherMode :=
  match code with
  | 0x0#4 => some .ecb
  | 0x1#4 => some .cbc
  | 0x2#4 => some .cfb
  | 0x3#4 => some .ofb
  | _ => none

/-- Why a command word is no command. -/
inductive DecodeError where
  /-- OP is 0x0 or 0x5..0xF (R67 (a)): the outcome ILLEGAL of R68. -/
  | reservedOp (op : BitVec 4)
  deriving DecidableEq, Repr

/-- OP = 0x2 (R68). -/
def decodeEnc (mode : BitVec 4) (a : Args) : Instr :=
  match modeOfCode mode with
  | some .ecb => .encEcb a
  | some .cbc => .encCbc a
  | some .cfb => .encCfb a
  | some .ofb => .encOfb a
  | none => .encBadmode mode a

/-- OP = 0x3 (R68). -/
def decodeDec (mode : BitVec 4) (a : Args) : Instr :=
  match modeOfCode mode with
  | some .ecb => .decEcb a
  | some .cbc => .decCbc a
  | some .cfb => .decCfb a
  | some .ofb => .decOfb a
  | none => .decBadmode mode a

/-- Decoding (R68): total, and by name where OP is reserved. -/
def decode (c : Command) : Except DecodeError Instr :=
  match opField c.cmd with
  | 0x1#4 => .ok (.setkey (modeField c.cmd) (argsOf c))
  | 0x2#4 => .ok (decodeEnc (modeField c.cmd) (argsOf c))
  | 0x3#4 => .ok (decodeDec (modeField c.cmd) (argsOf c))
  | 0x4#4 => .ok (.enciv (modeField c.cmd) (argsOf c))
  | op => .error (.reservedOp op)

/-- The command word with the given fields, most significant field first (R60). -/
def commandWord (mode op : BitVec 4) (a : Args) : BitVec 32 :=
  a.ivlen ++ a.dlen ++ a.reserved ++ BitVec.ofBool a.ivp ++ mode ++ op

/-- The operation code of an instruction (R61). -/
def opCode : Instr → BitVec 4
  | .setkey _ _ => 0x1
  | .encEcb _ => 0x2
  | .encCbc _ => 0x2
  | .encCfb _ => 0x2
  | .encOfb _ => 0x2
  | .encBadmode _ _ => 0x2
  | .decEcb _ => 0x3
  | .decCbc _ => 0x3
  | .decCfb _ => 0x3
  | .decOfb _ => 0x3
  | .decBadmode _ _ => 0x3
  | .enciv _ _ => 0x4

/-- The mode code of an instruction (R62, R69). -/
def modeCode : Instr → BitVec 4
  | .setkey mode _ => mode
  | .encEcb _ => 0x0
  | .encCbc _ => 0x1
  | .encCfb _ => 0x2
  | .encOfb _ => 0x3
  | .decEcb _ => 0x0
  | .decCbc _ => 0x1
  | .decCfb _ => 0x2
  | .decOfb _ => 0x3
  | .enciv mode _ => mode
  | .encBadmode mode _ => mode
  | .decBadmode mode _ => mode

/-- The command an instruction is written as. -/
def encode (i : Instr) : Command :=
  { cmd := commandWord (modeCode i) (opCode i) i.args, d := i.args.d, iv := i.args.iv }

/-- A row of the command table: a word belongs to it when the masked word is the match value (R69). -/
structure TableRow where
  mnemonic : String
  matchWord : BitVec 32
  mask : BitVec 32
  deriving DecidableEq, Repr

/-- Does a command word fit a row (R69)? -/
def TableRow.fits (r : TableRow) (cmd : BitVec 32) : Bool := cmd &&& r.mask == r.matchWord

/-- The command table (R69), in its order: the BADMODE rows "are to be tried after the valid-mode rows" and a
word that fits no row is ILLEGAL (R68). -/
def commandTable : List TableRow :=
  [ ⟨"SETKEY", 0x00000001, 0x0000000F⟩,
    ⟨"ENC.ECB", 0x00000002, 0x000000FF⟩,
    ⟨"ENC.CBC", 0x00000012, 0x000000FF⟩,
    ⟨"ENC.CFB", 0x00000022, 0x000000FF⟩,
    ⟨"ENC.OFB", 0x00000032, 0x000000FF⟩,
    ⟨"DEC.ECB", 0x00000003, 0x000000FF⟩,
    ⟨"DEC.CBC", 0x00000013, 0x000000FF⟩,
    ⟨"DEC.CFB", 0x00000023, 0x000000FF⟩,
    ⟨"DEC.OFB", 0x00000033, 0x000000FF⟩,
    ⟨"ENCIV", 0x00000004, 0x0000000F⟩,
    ⟨"ENC.BADMODE", 0x00000002, 0x0000000F⟩,
    ⟨"DEC.BADMODE", 0x00000003, 0x0000000F⟩ ]

/-- The mnemonic of an instruction (R69). -/
def mnemonic : Instr → String
  | .setkey _ _ => "SETKEY"
  | .encEcb _ => "ENC.ECB"
  | .encCbc _ => "ENC.CBC"
  | .encCfb _ => "ENC.CFB"
  | .encOfb _ => "ENC.OFB"
  | .decEcb _ => "DEC.ECB"
  | .decCbc _ => "DEC.CBC"
  | .decCfb _ => "DEC.CFB"
  | .decOfb _ => "DEC.OFB"
  | .enciv _ _ => "ENCIV"
  | .encBadmode _ _ => "ENC.BADMODE"
  | .decBadmode _ _ => "DEC.BADMODE"

/-- A whole command as one number of 224 bits: CMD in bits 31..0, the bus D in bits 159..32, the bus IV in
bits 223..160 (the model's numbering, log 3). -/
def commandOfNat (w : Nat) : Command :=
  { cmd := BitVec.ofNat 32 w
    d := BitVec.ofNat 128 (w >>> 32)
    iv := BitVec.ofNat 64 (w >>> 160) }

/-- The command whose low `nbits` bits are `w`; every bit above is 0. -/
def tableCommand (nbits w : Nat) : Command := commandOfNat (w % 2 ^ nbits)

/-- The instruction the decoder reads from a table word. -/
def decodeTableWord (nbits w : Nat) : Option Instr :=
  match decode (tableCommand nbits w) with
  | .ok i => some i
  | .error _ => none

end Sys2Proof
end

