-- ==== Sys2Proof/Machine/Operands.lean ====
section
/-! DEFINITION. Operand forms: byte order (20_memory.md R41, R42), bus lanes (R43), XOR on byte strings
(00_scope.md R8), the subkeys (10_state.md R23) and `requires_iv` (30_encoding.md R62). -/

namespace Sys2Proof.Machine

/-- `be32`: four bytes as a 32-bit value, the first the most significant (R8). -/
def be32 (b0 b1 b2 b3 : Byte) : Word := b0 ++ b1 ++ b2 ++ b3

/-- `unpack`: a block as two big-endian words (R41). -/
def unpack (b : Block) : Word × Word :=
  (be32 b[0] b[1] b[2] b[3], be32 b[4] b[5] b[6] b[7])

/-- `pack`: the inverse of `unpack` (R42). -/
def pack (v0 v1 : Word) : Block :=
  #v[v0.extractLsb' 24 8, v0.extractLsb' 16 8, v0.extractLsb' 8 8, v0.extractLsb' 0 8,
     v1.extractLsb' 24 8, v1.extractLsb' 16 8, v1.extractLsb' 8 8, v1.extractLsb' 0 8]

/-- `a XOR b` on byte strings: byte by byte (R8). -/
def xorBlock (a b : Block) : Block := Vector.ofFn fun i => a[i] ^^^ b[i]

/-- The block of eight zero bytes, the RESULT of every response without an output block (R66). -/
def zeroBlock : Block := #v[0, 0, 0, 0, 0, 0, 0, 0]

/-- Byte `i` on the 128-bit bus: lane [127-8i : 120-8i] (R43). -/
def dBusByte (bus : BitVec 128) (i : Nat) : Byte := bus.extractLsb' (120 - 8 * i) 8

/-- Byte `i` on a 64-bit bus: lane [63-8i : 56-8i] (R43). -/
def ivBusByte (bus : BitVec 64) (i : Nat) : Byte := bus.extractLsb' (56 - 8 * i) 8

/-- The data operand read as a key: sixteen bytes of the bus D (R43, R65). -/
def keyOperand (a : Args) : Key := Vector.ofFn fun i => dBusByte a.d i

/-- The data operand read as a block: the first eight bytes of the bus D; the other lanes are not read
(R43, R65). -/
def blockOperand (a : Args) : Block := Vector.ofFn fun i => dBusByte a.d i

/-- The IV operand: eight bytes of the bus IV (R43, R65). -/
def ivOperand (a : Args) : Block := Vector.ofFn fun i => ivBusByte a.iv i

/-- A block on the 64-bit RESULT bus, its first byte in the most significant lane (R43). -/
def resultLanes (b : Block) : BitVec 64 :=
  b[0] ++ b[1] ++ b[2] ++ b[3] ++ b[4] ++ b[5] ++ b[6] ++ b[7]

/-- The subkeys K0..K3 (R23). -/
structure Subkeys where
  k0 : Word
  k1 : Word
  k2 : Word
  k3 : Word
  deriving DecidableEq, Repr

/-- The subkeys are wires off KEY: its bytes 0 to 3, zero-extended (R23). -/
def subkeys (key : Key) : Subkeys :=
  { k0 := key[0].setWidth 32
    k1 := key[1].setWidth 32
    k2 := key[2].setWidth 32
    k3 := key[3].setWidth 32 }

/-- `requires_iv` (R62): "ECB: false; all others: true". -/
def requiresIv : CipherMode → Bool
  | .ecb => false
  | .cbc => true
  | .cfb => true
  | .ofb => true

/-- DLEN as an unsigned number, "used as it stands" (R60, R64). -/
def declaredLength (a : Args) : Nat := a.dlen.toNat

/-- IVP = 1 and IVLEN = 8: an IV is present and of the right size (R63, R110 step 4). -/
def ivSupplied (a : Args) : Bool := a.ivp && decide (a.ivlen.toNat = Config.ivBytes)

end Sys2Proof.Machine
end

