-- ==== Sys2Proof/Machine/State.lean ====
section
/-! DEFINITION. The state of the core (10_state.md R20) with the host's side of the command port, as plain data,
and the state after reset (R31). -/

namespace Sys2Proof.Machine

/-- The error kinds of a response (60_exceptions.md R141). -/
inductive ErrorKind where
  | invalidKey
  | invalidBlock
  | invalidMode
  | invalidIv
  | illegalCmd
  | noKey
  deriving DecidableEq, Repr

/-- A response, "as a sum: either an output block, or an error kind, or key loaded" (30_encoding.md R66). Its
form on the wires is `statusCode` and `resultBytes` (Machine/Flags.lean). -/
inductive Response where
  /-- STATUS = OK with an output block: ENC, DEC, ENCIV. -/
  | block (b : Block)
  /-- STATUS = OK of a successful SETKEY. -/
  | keyLoaded
  /-- An error. -/
  | error (k : ErrorKind)
  deriving DecidableEq, Repr

/-- What the host can do to the core (70_reset_and_hazards.md R177), beside nothing. -/
inductive HostInput where
  /-- Assert reset (R170). -/
  | reset
  /-- Present a command with its operands. -/
  | command (c : Command)
  deriving DecidableEq, Repr

/-- The registers of the round engine (10_state.md R20, R24, R25). -/
structure RoundState where
  v0 : Word
  v1 : Word
  sum : Word
  /-- RND: 6 bits, values 0..32. -/
  rnd : Fin 33
  deriving DecidableEq, Repr

/-- Contents the spec calls unspecified (R24, R31): the `n`-th free value of each register (logs 5, 6). -/
def RoundState.unspecified (n : Nat) : RoundState :=
  { v0 := Config.freeV0 n, v1 := Config.freeV1 n, sum := Config.freeSum n, rnd := Config.freeRnd n }

/-- The state: the core's own (10_state.md R20), then the host's side and the model's counter. -/
structure State where
  /-- KEY (R21). -/
  key : Key
  /-- KEY_VALID (R22). -/
  keyValid : Bool
  /-- V0, V1, SUM, RND (R24, R25). -/
  round : RoundState
  /-- The private copies of the command word and operands, held from acceptance to response (R32); BUSY is 1
  exactly when there are some (`State.busy`). DESIGN CHOICE, log 7. -/
  inFlight : Option Command
  /-- What the host will still do, oldest first (70_reset_and_hazards.md R177). The model's own, log 1. -/
  port : List HostInput
  /-- The responses the host has received, oldest first (00_scope.md R6). The model's own, log 1. -/
  responses : List Response
  /-- How many times free values have been drawn. The model's own, log 11. -/
  freeCount : Nat
  deriving DecidableEq, Repr

/-- BUSY (10_state.md R20, R32). -/
def State.busy (s : State) : Bool := s.inFlight.isSome

/-- Why the machine stops with a fault: never. "no error that stops the core" (60_exceptions.md R140). There is
no constructor and nobody raises one, which is exact (log 12). -/
inductive Fault where
  deriving DecidableEq, Repr

/-- Why a step has no meaning. -/
inductive Refusal where
  /-- An instruction without a meaning. Raised by nobody in this model: every arm of exec has one. Safe. -/
  | notModelled (mnemonic : String)
  deriving DecidableEq, Repr

/-- The state after reset (10_state.md R31): KEY_VALID = 0 and BUSY = 0; KEY, V0, V1, SUM and RND unspecified,
hence free values (logs 4, 5). The host has done nothing and received nothing. -/
def State.reset : State :=
  { key := Config.freeKey 0
    keyValid := false
    round := RoundState.unspecified 0
    inFlight := none
    port := []
    responses := []
    freeCount := 1 }

end Sys2Proof.Machine
end

