-- ==== Sys2Proof/Machine/Engine.lean ====
section
/-! DEFINITION. The round engine (41_core_transform.md): its functions MIX, ROUND_E, ROUND_D, TEA_E and TEA_D on
values, and the sequencer that runs them in the registers V0, V1, SUM, RND (R99). -/

namespace Sys2Proof.Machine

/-- DELTA (R90). -/
def delta : Word := 0x9E3779B9

/-- DSUM0, where SUM starts when decrypting (R90). -/
def dsum0 : Word := 0xC6EF3720

/-- ROUNDS (R90): "Run exactly 32 rounds". -/
def rounds : Nat := 32

/-- MIX (R91). -/
def mix (v s ka kb : Word) : Word := ((v <<< 4) + ka) ^^^ (v + s) ^^^ ((v >>> 5) + kb)

/-- ROUND_E on the triple (v0, v1, sum) (R92): the sum first, then v0 with the old v1, then v1 with the new
v0. -/
def roundE (k : Subkeys) (t : Word × Word × Word) : Word × Word × Word :=
  let sum' := t.2.2 + delta
  let v0' := t.1 + mix t.2.1 sum' k.k0 k.k1
  let v1' := t.2.1 + mix v0' sum' k.k2 k.k3
  (v0', v1', sum')

/-- ROUND_D (R94): v1 first with the v0 it starts with, then v0 with the restored v1, and the sum is lowered
last (90_conflicts.md C3). -/
def roundD (k : Subkeys) (t : Word × Word × Word) : Word × Word × Word :=
  let v1' := t.2.1 - mix t.1 t.2.2 k.k2 k.k3
  let v0' := t.1 - mix v1' t.2.2 k.k0 k.k1
  (v0', v1', t.2.2 - delta)

/-- `n` rounds, one after another. -/
def iterateRounds (f : Word × Word × Word → Word × Word × Word) :
    Nat → Word × Word × Word → Word × Word × Word
  | 0, t => t
  | n + 1, t => iterateRounds f n (f t)

/-- TEA_E under the subkeys `k` (R93). -/
@[irreducible] def teaE (k : Subkeys) (b : Block) : Block :=
  let t := iterateRounds (roundE k) rounds ((unpack b).1, (unpack b).2, 0)
  pack t.1 t.2.1

/-- TEA_D under the subkeys `k` (R95). -/
@[irreducible] def teaD (k : Subkeys) (b : Block) : Block :=
  let t := iterateRounds (roundD k) rounds ((unpack b).1, (unpack b).2, dsum0)
  pack t.1 t.2.1

/-- The direction of a transform, selected at its start (R99). -/
inductive Direction where
  | encrypt
  | decrypt
  deriving DecidableEq, Repr

/-- The start value of SUM (R93, R95). -/
def startSum : Direction → Word
  | .encrypt => 0
  | .decrypt => dsum0

/-- The round function of a direction (R99). -/
def roundOf : Direction → Subkeys → Word × Word × Word → Word × Word × Word
  | .encrypt => roundE
  | .decrypt => roundD

/-- Loading the registers at the start of a transform (R93, R95). -/
def engineLoad (dir : Direction) (b : Block) : RoundState :=
  { v0 := (unpack b).1, v1 := (unpack b).2, sum := startSum dir, rnd := 0 }

/-- One step of the sequencer (R99): "while RND < 32 the engine performs one" round; at RND = 32 it has
stopped. -/
def engineTick (dir : Direction) (k : Subkeys) (r : RoundState) : RoundState :=
  if r.rnd.val < rounds then
    let t := roundOf dir k (r.v0, r.v1, r.sum)
    { v0 := t.1, v1 := t.2.1, sum := t.2.2, rnd := r.rnd + 1 }
  else r

/-- `n` steps of the sequencer. -/
def engineTicks (dir : Direction) (k : Subkeys) : Nat → RoundState → RoundState
  | 0, r => r
  | n + 1, r => engineTicks dir k n (engineTick dir k r)

/-- A whole transform in the registers: load, then 32 rounds (R93, R95, R99). -/
@[irreducible] def engineRun (dir : Direction) (k : Subkeys) (b : Block) : RoundState :=
  engineTicks dir k rounds (engineLoad dir b)

/-- What the engine hands to the post-processor: `pack(V0, V1)` (R99). -/
def engineOutput (r : RoundState) : Block := pack r.v0 r.v1

end Sys2Proof.Machine
end

