-- ==== Sys2Proof/Machine/Flags.lean ====
section
/-! DEFINITION. There are no flags (10_state.md R28): "The only status a command produces is the `STATUS` field of
its own response". This file is that field and the RESULT bytes: a response on the wires (30_encoding.md R66). -/

namespace Sys2Proof.Machine

/-- The code of an error kind (R66, 60_exceptions.md R141). -/
def errorCode : ErrorKind → BitVec 4
  | .invalidKey => 0x1
  | .invalidBlock => 0x2
  | .invalidMode => 0x3
  | .invalidIv => 0x4
  | .illegalCmd => 0x5
  | .noKey => 0x6

/-- STATUS (R66). -/
def statusCode : Response → BitVec 4
  | .block _ => 0x0
  | .keyLoaded => 0x0
  | .error k => errorCode k

/-- The name of an error code (R66). -/
def errorName : ErrorKind → String
  | .invalidKey => "INVALID_KEY"
  | .invalidBlock => "INVALID_BLOCK"
  | .invalidMode => "INVALID_MODE"
  | .invalidIv => "INVALID_IV"
  | .illegalCmd => "ILLEGAL_CMD"
  | .noKey => "NO_KEY"

/-- The name of a status (R66). -/
def statusName : Response → String
  | .block _ => "OK"
  | .keyLoaded => "OK"
  | .error k => errorName k

/-- RESULT as eight bytes (R66): the output block, and zeros in every other case. -/
def resultBytes : Response → Block
  | .block b => b
  | .keyLoaded => zeroBlock
  | .error _ => zeroBlock

/-- RESULT on its 64-bit bus (20_memory.md R43). -/
def resultBus (r : Response) : BitVec 64 := resultLanes (resultBytes r)

end Sys2Proof.Machine
end

