-- ==== Sys2Proof/Machine/Ops.lean ====
section
/-! DEFINITION. The operations the meanings share: answering a command, raising an error (which is what this
hardware has in place of taking an exception), validation, running the engine, acceptance and reset. -/

namespace Sys2Proof.Machine

/-- `respond` (00_scope.md R10, 30_encoding.md R66): the core emits one response and the command is over, so
BUSY returns to 0 and the copies are let go (10_state.md R32). -/
def respond (r : Response) (s : State) : State :=
  { s with inFlight := none, responses := s.responses ++ [r] }

/-- `raise` (60_exceptions.md R149): "on an error the core saves nothing, switches no mode, masks nothing and
transfers control nowhere". It answers the error kind and writes nothing else. There is no return (R150). -/
def raiseError (k : ErrorKind) (s : State) : State := respond (.error k) s

/-- The answer to a reserved OP (60_exceptions.md R146). -/
def answerIllegal (s : State) : State := raiseError .illegalCmd s

/-- The registers of the engine after the response: unspecified (10_state.md R24; log 6). -/
def releaseRound (s : State) : State :=
  { s with round := RoundState.unspecified s.freeCount, freeCount := s.freeCount + 1 }

/-- Loading KEY (40_key_setup.md R80). -/
def loadKey (k : Key) (s : State) : State := { s with key := k, keyValid := true }

/-- Running the engine once on a block under KEY (41_core_transform.md R93, R95). -/
def runEngine (dir : Direction) (b : Block) (s : State) : State :=
  { s with round := engineRun dir (subkeys s.key) b }

/-- Running the engine once, and answering with its post-processed output (42_block_modes.md R111). -/
def transformAndAnswer (dir : Direction) (input : Block) (post : Block → Block) (s : State) : State :=
  let s₁ := runEngine dir input s
  releaseRound (respond (.block (post (engineOutput s₁.round))) s₁)

/-- VALIDATE (42_block_modes.md R110): the first check that fails, for the mode variant named by the command,
or for `none`, a code that is no variant. -/
def validate (mode : Option CipherMode) (a : Args) (s : State) : Option ErrorKind :=
  if s.keyValid = false then some .noKey
  else if declaredLength a ≠ Config.blockBytes then some .invalidBlock
  else
    match mode with
    | none => some .invalidMode
    | some m => if requiresIv m && !ivSupplied a then some .invalidIv else none

/-- What the pre-processor hands to the engine (42_block_modes.md R111 (1)). -/
inductive EngineInput where
  | block
  | blockXorIv
  | iv
  deriving DecidableEq, Repr

/-- What the post-processor makes of the engine output (42_block_modes.md R111 (3)). -/
inductive ResultSelect where
  | engine
  | engineXorIv
  | engineXorBlock
  deriving DecidableEq, Repr

/-- The pre-processor (R111 (1), R112). -/
def preProcess (sel : EngineInput) (b iv : Block) : Block :=
  match sel with
  | .block => b
  | .blockXorIv => xorBlock b iv
  | .iv => iv

/-- The post-processor (R111 (3), R112). -/
def postProcess (sel : ResultSelect) (b iv out : Block) : Block :=
  match sel with
  | .engine => out
  | .engineXorIv => xorBlock out iv
  | .engineXorBlock => xorBlock out b

/-- A block command (42_block_modes.md R110, R111): validation, then pre-processor, engine and
post-processor as a row of the control table (R112) sets them. -/
def blockCommand (mode : CipherMode) (pre : EngineInput) (dir : Direction) (post : ResultSelect)
    (a : Args) (s : State) : State :=
  match validate (some mode) a s with
  | some e => raiseError e s
  | none =>
    transformAndAnswer dir (preProcess pre (blockOperand a) (ivOperand a))
      (postProcess post (blockOperand a) (ivOperand a)) s

/-- A block command whose mode code is no variant (42_block_modes.md R121): VALIDATE always raises. -/
def badModeCommand (a : Args) (s : State) : State :=
  match validate none a s with
  | some e => raiseError e s
  | none => raiseError .invalidMode s

/-- Acceptance (10_state.md R32, 20_memory.md R46, R48): the command leaves the port, BUSY becomes 1, and the
core holds its own copies of the command word and operands. -/
def accept (c : Command) (rest : List HostInput) (s : State) : State :=
  { s with port := rest, inFlight := some c }

/-- Reset (70_reset_and_hazards.md R170, R171): KEY_VALID and BUSY become 0, everything else of the core is
unspecified (logs 4, 5), a command in flight is abandoned, and no response is produced. -/
def takeReset (rest : List HostInput) (s : State) : State :=
  { s with
    key := Config.freeKey s.freeCount
    keyValid := false
    round := RoundState.unspecified s.freeCount
    inFlight := none
    port := rest
    freeCount := s.freeCount + 1 }

end Sys2Proof.Machine
end

