-- ==== Sys2Proof/Machine/BlockModes.lean ====
section
/-! DEFINITION. The block commands (42_block_modes.md): each is its row of the control table (R112). -/

namespace Sys2Proof.Machine

/-- ENC.ECB (R113): TEA_E(D). -/
def execEncEcb (a : Args) (s : State) : Host.Outcome State Fault Refusal :=
  .next (blockCommand .ecb .block .encrypt .engine a s)

/-- ENC.CBC (R114): TEA_E(D XOR IV). -/
def execEncCbc (a : Args) (s : State) : Host.Outcome State Fault Refusal :=
  .next (blockCommand .cbc .blockXorIv .encrypt .engine a s)

/-- ENC.CFB (R115): D XOR TEA_E(IV). -/
def execEncCfb (a : Args) (s : State) : Host.Outcome State Fault Refusal :=
  .next (blockCommand .cfb .iv .encrypt .engineXorBlock a s)

/-- ENC.OFB (R116): D XOR TEA_E(IV), "separate command with its own mode code". -/
def execEncOfb (a : Args) (s : State) : Host.Outcome State Fault Refusal :=
  .next (blockCommand .ofb .iv .encrypt .engineXorBlock a s)

/-- DEC.ECB (R117): TEA_D(D). -/
def execDecEcb (a : Args) (s : State) : Host.Outcome State Fault Refusal :=
  .next (blockCommand .ecb .block .decrypt .engine a s)

/-- DEC.CBC (R118): TEA_D(D) XOR IV. -/
def execDecCbc (a : Args) (s : State) : Host.Outcome State Fault Refusal :=
  .next (blockCommand .cbc .block .decrypt .engineXorIv a s)

/-- DEC.CFB (R119): D XOR TEA_E(IV), the encryption direction. -/
def execDecCfb (a : Args) (s : State) : Host.Outcome State Fault Refusal :=
  .next (blockCommand .cfb .iv .encrypt .engineXorBlock a s)

/-- DEC.OFB (R120): D XOR TEA_E(IV), the encryption direction. -/
def execDecOfb (a : Args) (s : State) : Host.Outcome State Fault Refusal :=
  .next (blockCommand .ofb .iv .encrypt .engineXorBlock a s)

/-- ENC.BADMODE (R121): NO_KEY, else INVALID_BLOCK, else INVALID_MODE. -/
def execEncBadmode (a : Args) (s : State) : Host.Outcome State Fault Refusal :=
  .next (badModeCommand a s)

/-- DEC.BADMODE (R121): NO_KEY, else INVALID_BLOCK, else INVALID_MODE. -/
def execDecBadmode (a : Args) (s : State) : Host.Outcome State Fault Refusal :=
  .next (badModeCommand a s)

end Sys2Proof.Machine
end

