-- ==== Sys2Proof/Machine/CoreTransform.lean ====
section
/-! DEFINITION. The raw core transform of an IV: ENCIV (41_core_transform.md R98). -/

namespace Sys2Proof.Machine

/-- ENCIV (R98). It reads DLEN and D only. -/
def execEnciv (a : Args) (s : State) : Host.Outcome State Fault Refusal :=
  .next <|
    if s.keyValid = false then raiseError .noKey s
    else if declaredLength a ≠ Config.ivBytes then raiseError .invalidIv s
    else transformAndAnswer .encrypt (blockOperand a) (fun out => out) s

end Sys2Proof.Machine
end

