-- ==== Sys2Proof/Machine/KeySetup.lean ====
section
/-! DEFINITION. Key setup: SETKEY (40_key_setup.md). -/

namespace Sys2Proof.Machine

/-- SETKEY (R80). It reads DLEN and D only. -/
def execSetkey (a : Args) (s : State) : Host.Outcome State Fault Refusal :=
  .next <|
    if declaredLength a ≠ Config.keyBytes then raiseError .invalidKey s
    else respond .keyLoaded (loadKey (keyOperand a) s)

end Sys2Proof.Machine
end

