-- ==== Sys2Proof/Machine/Dispatch.lean ====
section
/-! DEFINITION. Every instruction and its meaning. -/

namespace Sys2Proof.Machine

def exec (i : Instr) (s : State) : Host.Outcome State Fault Refusal :=
  match i with
  | .setkey _ a => Sys2Proof.Machine.execSetkey a s
  | .encEcb a => Sys2Proof.Machine.execEncEcb a s
  | .encCbc a => Sys2Proof.Machine.execEncCbc a s
  | .encCfb a => Sys2Proof.Machine.execEncCfb a s
  | .encOfb a => Sys2Proof.Machine.execEncOfb a s
  | .decEcb a => Sys2Proof.Machine.execDecEcb a s
  | .decCbc a => Sys2Proof.Machine.execDecCbc a s
  | .decCfb a => Sys2Proof.Machine.execDecCfb a s
  | .decOfb a => Sys2Proof.Machine.execDecOfb a s
  | .enciv _ a => Sys2Proof.Machine.execEnciv a s
  | .encBadmode _ a => Sys2Proof.Machine.execEncBadmode a s
  | .decBadmode _ a => Sys2Proof.Machine.execDecBadmode a s

end Sys2Proof.Machine
end

