-- ==== Sys2Proof/Machine/Step.lean ====
section
/-! DEFINITION. One step: what the host does next, and the core's answer to it (20_memory.md R48,
70_reset_and_hazards.md R177; logs 1, 2, 8). -/

namespace Sys2Proof.Machine

/-- Running the command in flight to its response (20_memory.md R48): its instruction, or ILLEGAL_CMD where OP
is reserved (30_encoding.md R68, 60_exceptions.md R146). -/
def runCommand (c : Command) (s : State) : Host.Outcome State Fault Refusal :=
  match decode c with
  | .ok i => exec i s
  | .error _ => .next (answerIllegal s)

/-- One step. Reset wins over everything (70_reset_and_hazards.md R171). A core that is busy accepts nothing and
runs the command it holds (10_state.md R32). An idle core accepts the next command and runs it. Where the host
does nothing, nothing changes (R177). -/
def step (s : State) : Host.Outcome State Fault Refusal :=
  match s.port, s.inFlight with
  | .reset :: rest, _ => .next (takeReset rest s)
  | _, some c => runCommand c s
  | .command c :: rest, none => runCommand c (accept c rest s)
  | [], none => .next s

/-- The host presents a command word of `nbits` bits as the next thing it does, and the core is idle, so that
the next step accepts and runs it (log 2). -/
def State.withFetchWord (s : State) (nbits w : Nat) : State :=
  { s with port := .command (tableCommand nbits w) :: s.port, inFlight := none }

end Sys2Proof.Machine
end

