-- ==== Sys2Proof/Machine/Assembler.lean ====
section
/-! DEFINITION. The one-line form of a command (30_encoding.md R71), its reading from text, and the command the
host presents for it; by R70 a line is also a call of the source's interface (construct, encrypt_block,
decrypt_block, encrypt_iv). -/

namespace Sys2Proof.Machine

/-- A line (R71). A mode is given by its code, so that an unrecognised one can be written. -/
inductive Line where
  /-- SETKEY: "construct a cipher from `key`" (R70). -/
  | setkey (key : List Byte)
  /-- ENC: `encrypt_block(block, mode, iv)`; `iv` is `none` when absent. -/
  | enc (mode : BitVec 4) (block : List Byte) (iv : Option (List Byte))
  /-- DEC: `decrypt_block(block, mode, iv)`. -/
  | dec (mode : BitVec 4) (block : List Byte) (iv : Option (List Byte))
  /-- ENCIV: `encrypt_iv(iv)`. -/
  | enciv (iv : List Byte)
  deriving DecidableEq, Repr

/-- `n` bytes as a bus of `8 * n` bits, the first byte in the most significant lane (20_memory.md R43). Missing
bytes are zero lanes and bytes beyond the bus are not carried (log 13). -/
def lanes : (n : Nat) → List Byte → BitVec (8 * n)
  | 0, _ => 0
  | n + 1, [] => (0#8 ++ lanes n []).cast (by omega)
  | n + 1, b :: bs => (b ++ lanes n bs).cast (by omega)

/-- A declared length: 0..255 (R64). -/
def lengthField (bytes : List Byte) : Option (BitVec 8) :=
  if bytes.length < 256 then some (BitVec.ofNat 8 bytes.length) else none

/-- The fields of a command with a data operand and perhaps an IV operand (R71): IVP = 1 when the IV is written,
IVP = 0 and IVLEN = 0 when it is left out, reserved bits 0. -/
def argsOfOperands (data : List Byte) (iv : Option (List Byte)) : Option Args := do
  let dlen ← lengthField data
  let ivlen ← lengthField (iv.getD [])
  some
    { ivp := iv.isSome
      reserved := 0
      dlen := dlen
      ivlen := ivlen
      d := lanes Config.keyBytes data
      iv := lanes Config.ivBytes (iv.getD []) }

/-- The command of a line (R70, R71); none where a length does not fit its field. -/
def assemble : Line → Option Command
  | .setkey key => do
    let a ← argsOfOperands key none
    some { cmd := commandWord 0x0 0x1 a, d := a.d, iv := a.iv }
  | .enc mode block iv => do
    let a ← argsOfOperands block iv
    some { cmd := commandWord mode 0x2 a, d := a.d, iv := a.iv }
  | .dec mode block iv => do
    let a ← argsOfOperands block iv
    some { cmd := commandWord mode 0x3 a, d := a.d, iv := a.iv }
  | .enciv iv => do
    let a ← argsOfOperands iv none
    some { cmd := commandWord 0x0 0x4 a, d := a.d, iv := a.iv }

/-- A hexadecimal digit. -/
def hexDigit (c : Char) : Option (BitVec 4) :=
  let n := c.toNat
  if 48 ≤ n ∧ n ≤ 57 then some (BitVec.ofNat 4 (n - 48))
  else if 65 ≤ n ∧ n ≤ 70 then some (BitVec.ofNat 4 (n - 55))
  else if 97 ≤ n ∧ n ≤ 102 then some (BitVec.ofNat 4 (n - 87))
  else none

/-- Pairs of hexadecimal digits, first byte first (00_scope.md R8). -/
def hexBytes : List Char → Option (List Byte)
  | [] => some []
  | [_] => none
  | h :: l :: rest => do
    let hi ← hexDigit h
    let lo ← hexDigit l
    let bytes ← hexBytes rest
    some ((hi ++ lo) :: bytes)

/-- An operand: a byte string in hexadecimal, "An empty operand is written `-`" (R71). -/
def parseOperand (t : List Char) : Option (List Byte) :=
  if t = ['-'] then some []
  else if t = [] then none
  else hexBytes t

/-- The value of a decimal numeral. -/
def decimalValue (t : List Char) : Option Nat :=
  if t = [] then none
  else t.foldl (fun acc c => acc.bind fun n =>
    if 48 ≤ c.toNat ∧ c.toNat ≤ 57 then some (10 * n + (c.toNat - 48)) else none) (some 0)

/-- `<M>`: a variant's name, or `#n` for the raw mode code n (R71; n is read as decimal, log 16). -/
def parseMode (t : List Char) : Option (BitVec 4) :=
  match t with
  | ['E', 'C', 'B'] => some 0x0
  | ['C', 'B', 'C'] => some 0x1
  | ['C', 'F', 'B'] => some 0x2
  | ['O', 'F', 'B'] => some 0x3
  | '#' :: n => (decimalValue n).bind fun v => if v < 16 then some (BitVec.ofNat 4 v) else none
  | _ => none

/-- The words of a line: spaces separate, and a comma is a word of its own. -/
def words : List Char → List (List Char)
  | [] => [[]]
  | ' ' :: rest => [] :: words rest
  | ',' :: rest => [] :: [','] :: words rest
  | c :: rest =>
    match words rest with
    | w :: ws => (c :: w) :: ws
    | [] => [[c]]

/-- A line from its words (R71). -/
def parseWords : List (List Char) → Option Line
  | [['S', 'E', 'T', 'K', 'E', 'Y'], k] => do some (.setkey (← parseOperand k))
  | [['E', 'N', 'C', 'I', 'V'], i] => do some (.enciv (← parseOperand i))
  | ['E' :: 'N' :: 'C' :: '.' :: m, b] => do
    some (.enc (← parseMode m) (← parseOperand b) none)
  | ['E' :: 'N' :: 'C' :: '.' :: m, b, [','], i] => do
    some (.enc (← parseMode m) (← parseOperand b) (some (← parseOperand i)))
  | ['D' :: 'E' :: 'C' :: '.' :: m, b] => do
    some (.dec (← parseMode m) (← parseOperand b) none)
  | ['D' :: 'E' :: 'C' :: '.' :: m, b, [','], i] => do
    some (.dec (← parseMode m) (← parseOperand b) (some (← parseOperand i)))
  | _ => none

/-- A line from its text (R71). -/
def parseLine (text : String) : Option Line :=
  parseWords ((words text.toList).filter fun w => w ≠ [])

/-- A hexadecimal digit, as the spec prints it. -/
def hexChar (d : BitVec 4) : Char :=
  if d.toNat < 10 then Char.ofNat (48 + d.toNat) else Char.ofNat (55 + d.toNat)

/-- A byte string in hexadecimal, first byte first (00_scope.md R8). -/
def hexText : List Byte → List Char
  | [] => []
  | b :: bs => hexChar (b.extractLsb' 4 4) :: hexChar (b.extractLsb' 0 4) :: hexText bs

/-- The line that shows a response: `-> <STATUS> [<result hex>]` (R71). -/
def responseLine (r : Response) : String :=
  match r with
  | .block b => "-> " ++ statusName r ++ " " ++ String.ofList (hexText b.toList)
  | .keyLoaded => "-> " ++ statusName r
  | .error _ => "-> " ++ statusName r

end Sys2Proof.Machine
end

