-- ==== Sys2Proof/Safety.lean ====
section
/-! DEFINITION. The terms in which statements are made: what the host observes (00_scope.md R6,
70_reset_and_hazards.md R177), what an answer leaves unchanged, and the host's view of the core as a function of
the commands alone (20_memory.md R48). -/

namespace Sys2Proof.Machine

/-- The core is between commands (60_exceptions.md R154: "ready (`BUSY = 0`)"). -/
def Idle (s : State) : Prop := s.busy = false

/-- From `s` to `t` the core has given exactly the response `r`, is idle again, and KEY, KEY_VALID and what the
host will do next are as they were: the frame of every command but a successful SETKEY (40_key_setup.md R81). -/
structure Answers (r : Response) (s t : State) : Prop where
  responses : t.responses = s.responses ++ [r]
  idle : Idle t
  key : t.key = s.key
  keyValid : t.keyValid = s.keyValid
  port : t.port = s.port

/-- V0, V1, SUM and RND are not written, and no free value is drawn (60_exceptions.md R149). -/
structure RoundUntouched (s t : State) : Prop where
  round : t.round = s.round
  freeCount : t.freeCount = s.freeCount

/-- The instruction completes and its response is the output block `b`. -/
def AnswersBlock (i : Instr) (s : State) (b : Block) : Prop :=
  ∃ t, exec i s = .next t ∧ Answers (.block b) s t

/-- The instruction completes with an error response that leaves everything else as it was, the engine's
registers too (60_exceptions.md R149). -/
def AnswersError (i : Instr) (s : State) (k : ErrorKind) : Prop :=
  ∃ t, exec i s = .next t ∧ Answers (.error k) s t ∧ RoundUntouched s t

/-- A successful SETKEY: the one instruction that writes KEY (40_key_setup.md R80, R81). -/
def isSuccessfulSetkey (i : Instr) : Bool :=
  match i with
  | .setkey _ a => decide (a.dlen.toNat = 16)
  | _ => false

/-- A command that decodes to a successful SETKEY. -/
def loadsKey (c : Command) : Bool :=
  match decode c with
  | .ok i => isSuccessfulSetkey i
  | .error _ => false

/-- The instructions that are a block command in a mode variant, with the variant (42_block_modes.md). -/
def blockModeOf : Instr → Option CipherMode
  | .encEcb _ => some .ecb
  | .decEcb _ => some .ecb
  | .encCbc _ => some .cbc
  | .decCbc _ => some .cbc
  | .encCfb _ => some .cfb
  | .decCfb _ => some .cfb
  | .encOfb _ => some .ofb
  | .decOfb _ => some .ofb
  | .setkey _ _ => none
  | .enciv _ _ => none
  | .encBadmode _ _ => none
  | .decBadmode _ _ => none

/-- ENC in a mode variant. -/
def encIn (m : CipherMode) (a : Args) : Instr :=
  match m with
  | .ecb => .encEcb a
  | .cbc => .encCbc a
  | .cfb => .encCfb a
  | .ofb => .encOfb a

/-- DEC in a mode variant. -/
def decIn (m : CipherMode) (a : Args) : Instr :=
  match m with
  | .ecb => .decEcb a
  | .cbc => .decCbc a
  | .cfb => .decCfb a
  | .ofb => .decOfb a

/-- The operands a block command in mode `m` accepts (42_block_modes.md R110 steps 2 and 4). -/
structure OperandsValid (m : CipherMode) (a : Args) : Prop where
  block : a.dlen.toNat = 8
  iv : m ≠ .ecb → a.ivp = true ∧ a.ivlen.toNat = 8

/-- A command carries the fields and operands of a written line (30_encoding.md R71): reserved bits 0, IVP = 1 exactly
where an IV is written, the written lengths, and the bytes that fit the buses in their lanes (20_memory.md R43). -/
structure Carries (c : Command) (op mode : BitVec 4) (data : List Byte) (iv : Option (List Byte)) : Prop where
  op : opField c.cmd = op
  mode : modeField c.cmd = mode
  reserved : (argsOf c).reserved = 0
  dlen : (argsOf c).dlen.toNat = data.length
  ivp : (argsOf c).ivp = iv.isSome
  ivlen : (argsOf c).ivlen.toNat = (iv.getD []).length
  dataBytes : ∀ (n : Nat) (h : n < data.length), n < 16 → dBusByte c.d n = data[n]
  ivBytes : ∀ (n : Nat) (h : n < (iv.getD []).length), n < 8 → ivBusByte c.iv n = (iv.getD [])[n]

/-- The key a cipher "instance" has: none before a successful SETKEY (10_state.md R22). -/
def loadedKey (s : State) : Option Key := if s.keyValid then some s.key else none

/-- Two states the host cannot tell apart now or later: they may differ in KEY while none is loaded, in the key
bytes 4 to 15, in V0, V1, SUM, RND and in the counter of free values (40_key_setup.md R82, 41_core_transform.md
R102, 10_state.md R31). -/
structure Indistinguishable (s t : State) : Prop where
  responses : s.responses = t.responses
  keyValid : s.keyValid = t.keyValid
  inFlight : s.inFlight = t.inFlight
  port : s.port = t.port
  keyBytes : s.keyValid = true → subkeys s.key = subkeys t.key

/-- The answer to a block command under a loaded key, from OP, MODE, the lengths and the operands
(42_block_modes.md R110, R112). -/
def blockAnswer (k : Subkeys) (enc : Bool) (c : Command) : Response :=
  let a := argsOf c
  let b := blockOperand a
  let iv := ivOperand a
  let mode := (modeField c.cmd).toNat
  if a.dlen.toNat ≠ 8 then .error .invalidBlock
  else if 4 ≤ mode then .error .invalidMode
  else if mode = 0 then .block (if enc then teaE k b else teaD k b)
  else if a.ivp = false ∨ a.ivlen.toNat ≠ 8 then .error .invalidIv
  else if mode = 1 then .block (if enc then teaE k (xorBlock b iv) else xorBlock (teaD k b) iv)
  else .block (xorBlock b (teaE k iv))

/-- The response to a command, as a function of the loaded key and the command alone (20_memory.md R48), read
from the command word. -/
def answerTo (key : Option Key) (c : Command) : Response :=
  let a := argsOf c
  match (opField c.cmd).toNat with
  | 1 => if a.dlen.toNat = 16 then .keyLoaded else .error .invalidKey
  | 2 => key.elim (.error .noKey) fun k => blockAnswer (subkeys k) true c
  | 3 => key.elim (.error .noKey) fun k => blockAnswer (subkeys k) false c
  | 4 => key.elim (.error .noKey) fun k =>
      if a.dlen.toNat = 8 then .block (teaE (subkeys k) (blockOperand a)) else .error .invalidIv
  | _ => .error .illegalCmd

/-- The loaded key after a command (40_key_setup.md R80, R81). -/
def keyAfter (key : Option Key) (c : Command) : Option Key :=
  if (opField c.cmd).toNat = 1 ∧ (argsOf c).dlen.toNat = 16 then some (keyOperand (argsOf c)) else key

/-- What the host sees of a sequence of inputs: the loaded key at the end and the responses
(70_reset_and_hazards.md R177); a reset takes the key and gives no response (R170). -/
def hostView : Option Key → List HostInput → Option Key × List Response
  | key, [] => (key, [])
  | _, .reset :: rest => hostView none rest
  | key, .command c :: rest =>
    let r := hostView (keyAfter key c) rest
    (r.1, answerTo key c :: r.2)

end Sys2Proof.Machine
end

