-- ==== Sys2Proof/WellFormed.lean ====
section
/-! DEFINITION. When an instruction is well formed: when some command word is an encoding of it
(30_encoding.md R62, R68). Every field has its width in its type; the one check left is that a BADMODE row
holds a mode code that is no variant. -/

namespace Sys2Proof

/-- The codes 0x4..0xF are no variant (30_encoding.md R62). -/
def isBadModeCode (mode : BitVec 4) : Bool := decide (4 ≤ mode.toNat)

/-- Well-formedness of an instruction. -/
def Instr.wf : Instr → Bool
  | .setkey _ _ => true
  | .encEcb _ => true
  | .encCbc _ => true
  | .encCfb _ => true
  | .encOfb _ => true
  | .decEcb _ => true
  | .decCbc _ => true
  | .decCfb _ => true
  | .decOfb _ => true
  | .enciv _ _ => true
  | .encBadmode mode _ => isBadModeCode mode
  | .decBadmode mode _ => isBadModeCode mode

end Sys2Proof
end

