-- ==== Sys2Proof/Certificates/Slice0/Obligations.lean ====
section
/-! DEFINITION. The statements for the provers. Where a register is unspecified after a command (V0, V1, SUM, RND
after a transform; KEY after reset) no statement says anything of it. -/

open Sys2Proof Sys2Proof.Machine

/-! ### Encoding -/

/-- 30_encoding.md R60, R61, R62, R69: every well-formed instruction, with every value of every field and operand,
is read back from its own encoding. -/
def Obligations.DecodeEncodeRoundTrip : Prop :=
  ∀ i : Instr, i.wf = true → decode (encode i) = .ok i

/-- The other direction: a command that decodes is the encoding of what it decodes to, and that is well formed. -/
def Obligations.DecodedCommandsReencode : Prop :=
  ∀ (c : Command) (i : Instr), decode c = .ok i → encode i = c ∧ i.wf = true

/-- 30_encoding.md R68: the case distinction on OP and MODE, and the same by the command table: the first row that
fits names the instruction, and a word that fits no row is ILLEGAL. -/
def Obligations.DecodeFollowsTheCommandTable : Prop :=
  ∀ c : Command,
    (opField c.cmd = 0x1 → decode c = .ok (.setkey (modeField c.cmd) (argsOf c))) ∧
    (opField c.cmd = 0x2 → decode c = .ok
      (if modeField c.cmd = 0x0 then .encEcb (argsOf c)
       else if modeField c.cmd = 0x1 then .encCbc (argsOf c)
       else if modeField c.cmd = 0x2 then .encCfb (argsOf c)
       else if modeField c.cmd = 0x3 then .encOfb (argsOf c)
       else .encBadmode (modeField c.cmd) (argsOf c))) ∧
    (opField c.cmd = 0x3 → decode c = .ok
      (if modeField c.cmd = 0x0 then .decEcb (argsOf c)
       else if modeField c.cmd = 0x1 then .decCbc (argsOf c)
       else if modeField c.cmd = 0x2 then .decCfb (argsOf c)
       else if modeField c.cmd = 0x3 then .decOfb (argsOf c)
       else .decBadmode (modeField c.cmd) (argsOf c))) ∧
    (opField c.cmd = 0x4 → decode c = .ok (.enciv (modeField c.cmd) (argsOf c))) ∧
    (opField c.cmd = 0x0 ∨ 0x5 ≤ opField c.cmd → decode c = .error (.reservedOp (opField c.cmd))) ∧
    (∀ row, commandTable.find? (fun r => r.fits c.cmd) = some row →
      ∃ i, decode c = .ok i ∧ mnemonic i = row.mnemonic) ∧
    (commandTable.find? (fun r => r.fits c.cmd) = none →
      decode c = .error (.reservedOp (opField c.cmd)))

/-- 30_encoding.md R69, worked encodings, and 95_test_vectors.md T12 row 24 (reserved bits set), T13 (ENC.#7). -/
def Obligations.SpecWordsDecode : Prop :=
  decodeTableWord 32 0x08080112 = some (.encCbc ⟨true, 0, 8, 8, 0, 0⟩) ∧
  decodeTableWord 32 0x00100001 = some (.setkey 0 ⟨false, 0, 16, 0, 0, 0⟩) ∧
  decodeTableWord 32 0x00080002 = some (.encEcb ⟨false, 0, 8, 0, 0, 0⟩) ∧
  decodeTableWord 32 0x00080004 = some (.enciv 0 ⟨false, 0, 8, 0, 0, 0⟩) ∧
  decodeTableWord 32 0x08080133 = some (.decOfb ⟨true, 0, 8, 8, 0, 0⟩) ∧
  decodeTableWord 32 0x0808FF12 = some (.encCbc ⟨true, 0x7F, 8, 8, 0, 0⟩) ∧
  decodeTableWord 32 0x00080072 = some (.encBadmode 7 ⟨false, 0, 8, 0, 0, 0⟩) ∧
  decodeTableWord 32 0x00080005 = none

/-- 30_encoding.md R62: the mode codes, and the flag of each variant. -/
def Obligations.ModeTaxonomy : Prop :=
  modeOfCode 0x0 = some .ecb ∧ modeOfCode 0x1 = some .cbc ∧ modeOfCode 0x2 = some .cfb ∧
  modeOfCode 0x3 = some .ofb ∧ (∀ code : BitVec 4, 4 ≤ code.toNat → modeOfCode code = none) ∧
  (∀ m : CipherMode, requiresIv m = false ↔ m = .ecb)

/-- 30_encoding.md R70, R71: the command of a line, with operands of any lengths a length field can declare, carries
what the line gives: the operation, the mode, whether an IV is written, both lengths and the operand bytes that fit
the buses; what the line does not give is 0 (for SETKEY and ENCIV MODE, IVP and IVLEN, and everywhere the reserved
bits). Operands of the right lengths read back as the key, the block and the IV. -/
def Obligations.AssembledLinesCarryTheirOperands : Prop :=
  (∀ key : List Byte, key.length < 256 →
    ∃ c, assemble (.setkey key) = some c ∧ Carries c 0x1 0x0 key none) ∧
  (∀ (mode : BitVec 4) (block : List Byte) (iv : Option (List Byte)),
    block.length < 256 → (iv.getD []).length < 256 →
      (∃ c, assemble (.enc mode block iv) = some c ∧ Carries c 0x2 mode block iv) ∧
      (∃ c, assemble (.dec mode block iv) = some c ∧ Carries c 0x3 mode block iv)) ∧
  (∀ iv : List Byte, iv.length < 256 →
    ∃ c, assemble (.enciv iv) = some c ∧ Carries c 0x4 0x0 iv none) ∧
  (∀ (c : Command) (op mode : BitVec 4) (data : List Byte) (iv : Option (List Byte)),
    Carries c op mode data iv →
      (∀ key : Key, data = key.toList → keyOperand (argsOf c) = key) ∧
      (∀ b : Block, data = b.toList → blockOperand (argsOf c) = b) ∧
      (∀ b : Block, iv = some b.toList → ivOperand (argsOf c) = b))

/-! ### The step -/

/-- 20_memory.md R48, 10_state.md R32: an idle core takes the host's next command off the port, holds its copy
(BUSY = 1), and the step is the meaning of the decoded instruction there. -/
def Obligations.StepRunsTheDecodedCommand : Prop :=
  ∀ (s : State) (c : Command) (rest : List HostInput) (i : Instr),
    Idle s → s.port = .command c :: rest → decode c = .ok i →
      step s = exec i { s with port := rest, inFlight := some c }

/-- The very next step runs the word placed by `withFetchWord`, and what the host does after it is as before. -/
def Obligations.PlacedWordRunsNext : Prop :=
  ∀ (s : State) (nbits w : Nat) (i : Instr), decodeTableWord nbits w = some i →
    step (s.withFetchWord nbits w) = exec i { s with inFlight := some (tableCommand nbits w) }

/-- 10_state.md R32: while BUSY = 1 the core accepts nothing: unless reset comes, it runs the copy it holds and the
port is not touched. That a state can be busy between two steps, and that its very next step runs the held copy
before the port is looked at, is the model's own convention (logs 7 and 8): the spec has BUSY = 1 inside one atomic
step. -/
def Obligations.BusyCoreAcceptsNothing : Prop :=
  ∀ (s : State) (c : Command), s.inFlight = some c → s.port.head? ≠ some .reset →
    ∃ t r, step s = .next t ∧ t.port = s.port ∧ Idle t ∧ t.responses = s.responses ++ [r] ∧
      r = answerTo (loadedKey s) c

/-- 70_reset_and_hazards.md R177, last row of its table: the host does nothing and the core does nothing. -/
def Obligations.NothingInNothingHappens : Prop :=
  ∀ s : State, Idle s → s.port = [] → step s = .next s

/-- 60_exceptions.md R140, 70_reset_and_hazards.md R176: no state stops the core. -/
def Obligations.EveryStepAnswersNext : Prop :=
  ∀ s : State, ∃ t, step s = .next t

/-- 70_reset_and_hazards.md R170, R171: reset at the port, whether a command is in flight or not: KEY_VALID and BUSY
are 0, a command in flight is abandoned and there is no response. -/
def Obligations.ResetTakesTheKeyWithoutAResponse : Prop :=
  ∀ (s : State) (rest : List HostInput), s.port = .reset :: rest →
    ∃ t, step s = .next t ∧ t.keyValid = false ∧ t.busy = false ∧ t.inFlight = none ∧
      t.responses = s.responses ∧ t.port = rest

/-- 10_state.md R31: KEY_VALID = 0 and BUSY = 0 after reset. The empty port and the empty list of responses are the
model's own (log 1). -/
def Obligations.ResetStateValues : Prop :=
  State.reset.keyValid = false ∧ State.reset.busy = false ∧ loadedKey State.reset = none ∧
    State.reset.port = [] ∧ State.reset.responses = []

/-- 10_state.md R32, 70_reset_and_hazards.md R177: between steps no command is in flight; every step keeps this. -/
def Obligations.StepsLeaveTheCoreIdle : Prop :=
  ∀ s t : State, Idle s → step s = .next t → Idle t

/-- 30_encoding.md R66: every accepted command produces exactly one response, and this is its form on the wires. -/
def Obligations.OneResponsePerCommand : Prop :=
  (errorCode .invalidKey = 0x1 ∧ errorCode .invalidBlock = 0x2 ∧ errorCode .invalidMode = 0x3 ∧
    errorCode .invalidIv = 0x4 ∧ errorCode .illegalCmd = 0x5 ∧ errorCode .noKey = 0x6) ∧
  (∀ (s : State) (c : Command) (rest : List HostInput), Idle s → s.port = .command c :: rest →
    ∃ t r, step s = .next t ∧ t.responses = s.responses ++ [r] ∧ t.port = rest ∧ Idle t ∧
      ((∃ b, r = .block b ∧ statusCode r = 0x0 ∧ resultBytes r = b ∧
          (opField c.cmd = 0x2 ∨ opField c.cmd = 0x3 ∨ opField c.cmd = 0x4)) ∨
       (r = .keyLoaded ∧ statusCode r = 0x0 ∧ resultBytes r = zeroBlock ∧ opField c.cmd = 0x1) ∨
       (∃ k, r = .error k ∧ statusCode r = errorCode k ∧ resultBytes r = zeroBlock)))

/-- 60_exceptions.md R146: ILLEGAL_CMD exactly for the reserved OP values, from the command word alone, whatever
KEY_VALID is, and with no effect on the state. -/
def Obligations.ReservedOpAnswersIllegal : Prop :=
  ∀ (s : State) (c : Command) (rest : List HostInput), Idle s → s.port = .command c :: rest →
    ((opField c.cmd = 0x0 ∨ 0x5 ≤ opField c.cmd) →
      step s = .next { s with port := rest, responses := s.responses ++ [.error .illegalCmd] }) ∧
    (∀ t, step s = .next t → t.responses = s.responses ++ [.error .illegalCmd] →
      opField c.cmd = 0x0 ∨ 0x5 ≤ opField c.cmd)

/-- 60_exceptions.md R147: NO_KEY for ENC, DEC and ENCIV exactly while KEY_VALID = 0, before any operand check and
with no effect on the state; nothing else (so not SETKEY) raises it. -/
def Obligations.NoKeyUntilSetkey : Prop :=
  ∀ (s : State) (c : Command) (rest : List HostInput), Idle s → s.port = .command c :: rest →
    (s.keyValid = false → opField c.cmd = 0x2 ∨ opField c.cmd = 0x3 ∨ opField c.cmd = 0x4 →
      step s = .next { s with port := rest, responses := s.responses ++ [.error .noKey] }) ∧
    (∀ t, step s = .next t → t.responses = s.responses ++ [.error .noKey] →
      s.keyValid = false ∧ (opField c.cmd = 0x2 ∨ opField c.cmd = 0x3 ∨ opField c.cmd = 0x4))

/-- 60_exceptions.md R149: a command that answers an error has changed nothing but the host's view: the whole state is
as it was, and the response is the code with RESULT zero. -/
def Obligations.ErrorsLeaveNoTrace : Prop :=
  ∀ (s t : State) (c : Command) (rest : List HostInput) (k : ErrorKind),
    Idle s → s.port = .command c :: rest → step s = .next t →
    t.responses = s.responses ++ [.error k] →
      t = { s with port := rest, responses := s.responses ++ [.error k] } ∧
      statusCode (.error k) = errorCode k ∧ resultBytes (.error k) = zeroBlock

/-- 30_encoding.md R67 (c): two commands that differ in CMD[15:9] only have the same step. -/
def Obligations.ReservedBitsChangeNothing : Prop :=
  ∀ (s : State) (c c' : Command) (rest : List HostInput), Idle s →
    c.cmd &&& 0xFFFF01FF = c'.cmd &&& 0xFFFF01FF → c.d = c'.d → c.iv = c'.iv →
      step { s with port := .command c :: rest } = step { s with port := .command c' :: rest }

/-- 30_encoding.md R67 (d), R63 to R65: the fields an operation does not read. A BADMODE command answers alike for
every code that is no variant (42_block_modes.md R121); of the terms with another code, which no word decodes to
(log 18), nothing is said. -/
def Obligations.UnreadFieldsAreIgnored : Prop :=
  ∀ (a : Args) (s : State) (m m' : BitVec 4) (ivp : Bool) (ivlen : BitVec 8) (iv : BitVec 64),
    exec (.setkey m a) s = exec (.setkey m' { a with ivp := ivp, ivlen := ivlen, iv := iv }) s ∧
    exec (.enciv m a) s = exec (.enciv m' { a with ivp := ivp, ivlen := ivlen, iv := iv }) s ∧
    exec (.encEcb a) s = exec (.encEcb { a with ivp := ivp, ivlen := ivlen, iv := iv }) s ∧
    exec (.decEcb a) s = exec (.decEcb { a with ivp := ivp, ivlen := ivlen, iv := iv }) s ∧
    (4 ≤ m.toNat → 4 ≤ m'.toNat →
      exec (.encBadmode m a) s = exec (.encBadmode m' { a with ivp := ivp, ivlen := ivlen, iv := iv }) s ∧
      exec (.decBadmode m a) s = exec (.decBadmode m' { a with ivp := ivp, ivlen := ivlen, iv := iv }) s) ∧
    (∀ m : CipherMode, a.ivp = false →
      exec (encIn m a) s = exec (encIn m { a with ivlen := ivlen, iv := iv }) s ∧
      exec (decIn m a) s = exec (decIn m { a with ivlen := ivlen, iv := iv }) s)

/-! ### Values: byte order, arithmetic, rounds -/

/-- 20_memory.md R41: two big-endian words, the first from the first four bytes. -/
def Obligations.UnpackIsBigEndian : Prop :=
  (∀ b : Block,
    (unpack b).1.toNat = b[0].toNat * 2 ^ 24 + b[1].toNat * 2 ^ 16 + b[2].toNat * 2 ^ 8 + b[3].toNat ∧
    (unpack b).2.toNat = b[4].toNat * 2 ^ 24 + b[5].toNat * 2 ^ 16 + b[6].toNat * 2 ^ 8 + b[7].toNat) ∧
  unpack #v[0x01, 0x02, 0x03, 0x04, 0x05, 0x06, 0x07, 0x08] = (0x01020304, 0x05060708)

/-- 20_memory.md R42: the eight bytes of a packed pair of words, and that packing and unpacking are inverse. -/
def Obligations.PackInvertsUnpack : Prop :=
  (∀ v0 v1 : Word, pack v0 v1 =
    #v[v0.extractLsb 31 24, v0.extractLsb 23 16, v0.extractLsb 15 8, v0.extractLsb 7 0,
       v1.extractLsb 31 24, v1.extractLsb 23 16, v1.extractLsb 15 8, v1.extractLsb 7 0]) ∧
  (∀ b : Block, pack (unpack b).1 (unpack b).2 = b) ∧
  (∀ v0 v1 : Word, unpack (pack v0 v1) = (v0, v1))

/-- 20_memory.md R53: XOR on byte strings commutes with unpacking, and on the buses it is the plain bitwise XOR. -/
def Obligations.XorCommutesWithUnpack : Prop :=
  (∀ a b : Block, unpack (xorBlock a b) =
    ((unpack a).1 ^^^ (unpack b).1, (unpack a).2 ^^^ (unpack b).2)) ∧
  (∀ a b : Block, resultLanes (xorBlock a b) = resultLanes a ^^^ resultLanes b) ∧
  (∀ (a : Args) (d : BitVec 128) (iv : BitVec 64),
    blockOperand { a with d := a.d ^^^ d } = xorBlock (blockOperand a) (blockOperand { a with d := d }) ∧
    ivOperand { a with iv := a.iv ^^^ iv } = xorBlock (ivOperand a) (ivOperand { a with iv := iv }))

/-- 20_memory.md R43: the lanes of the words of a block on D, of an IV on its bus, and of a result; and that the
lanes past a block are not read. -/
def Obligations.BusLanes : Prop :=
  (∀ a : Args, unpack (blockOperand a) = (a.d.extractLsb 127 96, a.d.extractLsb 95 64)) ∧
  (∀ a : Args, unpack (ivOperand a) = (a.iv.extractLsb 63 32, a.iv.extractLsb 31 0)) ∧
  (∀ (a : Args) (i : Fin 16), (keyOperand a)[i] = (a.d >>> (120 - 8 * i.val)).setWidth 8) ∧
  (∀ v0 v1 : Word, resultLanes (pack v0 v1) = v0 ++ v1)

/-- 10_state.md R23: each subkey is one of the key bytes 0 to 3, an unsigned value below 256. -/
def Obligations.SubkeysAreZeroExtendedBytes : Prop :=
  ∀ key : Key,
    (subkeys key).k0.toNat = key[0].toNat ∧ (subkeys key).k1.toNat = key[1].toNat ∧
    (subkeys key).k2.toNat = key[2].toNat ∧ (subkeys key).k3.toNat = key[3].toNat ∧
    (subkeys key).k0.toNat ≤ 255 ∧ (subkeys key).k1.toNat ≤ 255 ∧
    (subkeys key).k2.toNat ≤ 255 ∧ (subkeys key).k3.toNat ≤ 255

/-- 41_core_transform.md R91, R97: MIX is the exact expression over unbounded numbers, reduced once at the end. -/
def Obligations.MixIsExactArithmetic : Prop :=
  ∀ v s ka kb : Word,
    (mix v s ka kb).toNat =
      ((v.toNat * 2 ^ 4 + ka.toNat) ^^^ (v.toNat + s.toNat) ^^^ (v.toNat / 2 ^ 5 + kb.toNat)) % 2 ^ 32

/-- 41_core_transform.md R100: the sum after r forward rounds and after j backward rounds depends on neither key nor
data; the 32 values are the printed table, and backward round 33 - r uses the value of forward round r. -/
def Obligations.SumSchedule : Prop :=
  (∀ (k : Subkeys) (v0 v1 : Word) (r : Nat), r ≤ 32 →
    (iterateRounds (roundE k) r (v0, v1, 0)).2.2 = BitVec.ofNat 32 r * 0x9E3779B9) ∧
  (∀ (k : Subkeys) (v0 v1 : Word) (r : Nat), 1 ≤ r → r ≤ 32 →
    (iterateRounds (roundD k) (33 - r - 1) (v0, v1, dsum0)).2.2 = BitVec.ofNat 32 r * 0x9E3779B9) ∧
  (List.range 32).map (fun r => BitVec.ofNat 32 (r + 1) * 0x9E3779B9) =
    ([0x9E3779B9, 0x3C6EF372, 0xDAA66D2B, 0x78DDE6E4, 0x1715609D, 0xB54CDA56, 0x5384540F, 0xF1BBCDC8,
      0x8FF34781, 0x2E2AC13A, 0xCC623AF3, 0x6A99B4AC, 0x08D12E65, 0xA708A81E, 0x454021D7, 0xE3779B90,
      0x81AF1549, 0x1FE68F02, 0xBE1E08BB, 0x5C558274, 0xFA8CFC2D, 0x98C475E6, 0x36FBEF9F, 0xD5336958,
      0x736AE311, 0x11A25CCA, 0xAFD9D683, 0x4E11503C, 0xEC48C9F5, 0x8A8043AE, 0x28B7BD67, 0xC6EF3720] :
      List Word)

/-- 41_core_transform.md R93, R95, R99: the sequencer in the registers V0, V1, SUM, RND, started on a block, stops
after exactly 32 rounds with RND = 32 and the final SUM, and what it then hands over is TEA_E or TEA_D. -/
def Obligations.SequencerComputesTheTransform : Prop :=
  ∀ (k : Subkeys) (b : Block) (n : Nat), 32 ≤ n →
    engineOutput (engineTicks .encrypt k n (engineLoad .encrypt b)) = teaE k b ∧
    (engineTicks .encrypt k n (engineLoad .encrypt b)).sum = 0xC6EF3720 ∧
    (engineTicks .encrypt k n (engineLoad .encrypt b)).rnd.val = 32 ∧
    engineOutput (engineTicks .decrypt k n (engineLoad .decrypt b)) = teaD k b ∧
    (engineTicks .decrypt k n (engineLoad .decrypt b)).sum = 0x00000000 ∧
    (engineTicks .decrypt k n (engineLoad .decrypt b)).rnd.val = 32

/-- 41_core_transform.md R96: one backward round undoes one forward round on the whole triple and the other way
round, the forward sum ends where the backward one starts, and TEA_D and TEA_E are inverse. -/
def Obligations.TransformsAreInverse : Prop :=
  (∀ (k : Subkeys) (t : Word × Word × Word), roundD k (roundE k t) = t ∧ roundE k (roundD k t) = t) ∧
  (∀ (k : Subkeys) (v0 v1 : Word), (iterateRounds (roundE k) 32 (v0, v1, 0)).2.2 = dsum0) ∧
  (∀ (key : Key) (b : Block), teaD (subkeys key) (teaE (subkeys key) b) = b ∧
    teaE (subkeys key) (teaD (subkeys key) b) = b)

/-! ### Instructions: results and errors -/

/-- 40_key_setup.md R80: SETKEY under any state: with DLEN = 16 it loads all sixteen bytes and answers OK, with any
other length it answers INVALID_KEY and changes nothing; V0, V1, SUM, RND are not touched; the fields it does not
read do not matter; the worked words. -/
def Obligations.SetkeyLoadsTheKey : Prop :=
  (∀ (m : BitVec 4) (a : Args) (s : State), a.dlen.toNat = 16 →
    ∃ t, exec (.setkey m a) s = .next t ∧ (∀ i : Fin 16, t.key[i] = dBusByte a.d i) ∧ t.keyValid = true ∧
      t.responses = s.responses ++ [.keyLoaded] ∧ statusCode .keyLoaded = 0x0 ∧
      resultBytes .keyLoaded = zeroBlock ∧ Idle t ∧ t.port = s.port ∧ RoundUntouched s t) ∧
  (∀ (m : BitVec 4) (a : Args) (s : State), a.dlen.toNat ≠ 16 → AnswersError (.setkey m a) s .invalidKey) ∧
  (statusCode (.error .invalidKey) = 0x1 ∧ resultBytes (.error .invalidKey) = zeroBlock) ∧
  (∀ (m m' : BitVec 4) (a : Args) (s : State) (ivp : Bool) (ivlen : BitVec 8) (iv : BitVec 64),
    exec (.setkey m a) s = exec (.setkey m' { a with ivp := ivp, ivlen := ivlen, iv := iv }) s) ∧
  (∀ c : Command, opField c.cmd = 0x1 ↔ ∃ m a, decode c = .ok (.setkey m a)) ∧
  (decodeTableWord 32 0x00100001 = some (.setkey 0 ⟨false, 0, 16, 0, 0, 0⟩)) ∧
  (decodeTableWord 32 0x000F0001 = some (.setkey 0 ⟨false, 0, 15, 0, 0, 0⟩))

/-- 41_core_transform.md R98: ENCIV: NO_KEY first, then INVALID_IV by the declared length, else TEA_E of the operand
with no XOR, which is the answer of ENC.ECB to the same operand. -/
def Obligations.EncivAnswersTheRawTransform : Prop :=
  (∀ (m : BitVec 4) (a : Args) (s : State), s.keyValid = true → a.dlen.toNat = 8 →
    AnswersBlock (.enciv m a) s (teaE (subkeys s.key) (blockOperand a)) ∧
    AnswersBlock (.encEcb a) s (teaE (subkeys s.key) (blockOperand a))) ∧
  (∀ (m : BitVec 4) (a : Args) (s : State), s.keyValid = false → AnswersError (.enciv m a) s .noKey) ∧
  (∀ (m : BitVec 4) (a : Args) (s : State), s.keyValid = true → a.dlen.toNat ≠ 8 →
    AnswersError (.enciv m a) s .invalidIv) ∧
  (∀ (m m' : BitVec 4) (a : Args) (s : State) (ivp : Bool) (ivlen : BitVec 8) (iv : BitVec 64),
    exec (.enciv m a) s = exec (.enciv m' { a with ivp := ivp, ivlen := ivlen, iv := iv }) s) ∧
  (∀ c : Command, opField c.cmd = 0x4 ↔ ∃ m a, decode c = .ok (.enciv m a)) ∧
  (decodeTableWord 32 0x00080004 = some (.enciv 0 ⟨false, 0, 8, 0, 0, 0⟩))

/-- 42_block_modes.md R112: the control table: for each of the eight block commands, under a loaded key and with
operands of the right lengths, the engine input, the direction and the result. -/
def Obligations.BlockCommandsFollowTheControlTable : Prop :=
  ∀ (a : Args) (s : State), s.keyValid = true →
    (OperandsValid .ecb a →
      AnswersBlock (.encEcb a) s (teaE (subkeys s.key) (blockOperand a)) ∧
      AnswersBlock (.decEcb a) s (teaD (subkeys s.key) (blockOperand a))) ∧
    (OperandsValid .cbc a →
      AnswersBlock (.encCbc a) s (teaE (subkeys s.key) (xorBlock (blockOperand a) (ivOperand a))) ∧
      AnswersBlock (.decCbc a) s (xorBlock (teaD (subkeys s.key) (blockOperand a)) (ivOperand a))) ∧
    (OperandsValid .cfb a →
      AnswersBlock (.encCfb a) s (xorBlock (teaE (subkeys s.key) (ivOperand a)) (blockOperand a)) ∧
      AnswersBlock (.decCfb a) s (xorBlock (teaE (subkeys s.key) (ivOperand a)) (blockOperand a))) ∧
    (OperandsValid .ofb a →
      AnswersBlock (.encOfb a) s (xorBlock (teaE (subkeys s.key) (ivOperand a)) (blockOperand a)) ∧
      AnswersBlock (.decOfb a) s (xorBlock (teaE (subkeys s.key) (ivOperand a)) (blockOperand a)))

/-- 42_block_modes.md R110: the checks of every ENC and DEC command, in their order; a failed one answers its kind with
RESULT zero and leaves KEY, KEY_VALID, V0, V1, SUM and RND untouched; in mode ECB the IV is not looked at. -/
def Obligations.ValidationOrder : Prop :=
  (∀ (i : Instr) (m : CipherMode) (s : State), blockModeOf i = some m →
    (s.keyValid = false → AnswersError i s .noKey) ∧
    (s.keyValid = true → i.args.dlen.toNat ≠ 8 → AnswersError i s .invalidBlock) ∧
    (s.keyValid = true → i.args.dlen.toNat = 8 → m ≠ .ecb →
      i.args.ivp = false ∨ i.args.ivlen.toNat ≠ 8 → AnswersError i s .invalidIv) ∧
    (s.keyValid = true → i.args.dlen.toNat = 8 →
      m = .ecb ∨ (i.args.ivp = true ∧ i.args.ivlen.toNat = 8) → ∃ b, AnswersBlock i s b)) ∧
  (∀ (code : BitVec 4) (a : Args) (s : State), 4 ≤ code.toNat →
    ∀ i ∈ [Instr.encBadmode code a, Instr.decBadmode code a],
      (s.keyValid = false → AnswersError i s .noKey) ∧
      (s.keyValid = true → a.dlen.toNat ≠ 8 → AnswersError i s .invalidBlock) ∧
      (s.keyValid = true → a.dlen.toNat = 8 → AnswersError i s .invalidMode)) ∧
  (∀ (a : Args) (s : State) (ivp : Bool) (ivlen : BitVec 8) (iv : BitVec 64),
    exec (.encEcb a) s = exec (.encEcb { a with ivp := ivp, ivlen := ivlen, iv := iv }) s ∧
    exec (.decEcb a) s = exec (.decEcb { a with ivp := ivp, ivlen := ivlen, iv := iv }) s) ∧
  (∀ k : ErrorKind, resultBytes (.error k) = zeroBlock)

/-- 42_block_modes.md R121: a mode code that is no variant: NO_KEY, else INVALID_BLOCK, else INVALID_MODE, with no
engine run and no state change, the IV fields never looked at; and the words that have such a code. -/
def Obligations.BadModeAnswers : Prop :=
  (∀ (m : BitVec 4) (a : Args) (s : State), 4 ≤ m.toNat →
    ∀ i ∈ [Instr.encBadmode m a, Instr.decBadmode m a],
    (s.keyValid = false → AnswersError i s .noKey) ∧
    (s.keyValid = true → a.dlen.toNat ≠ 8 → AnswersError i s .invalidBlock) ∧
    (s.keyValid = true → a.dlen.toNat = 8 → AnswersError i s .invalidMode)) ∧
  (∀ c : Command, 4 ≤ (modeField c.cmd).toNat →
    (opField c.cmd = 0x2 → decode c = .ok (.encBadmode (modeField c.cmd) (argsOf c))) ∧
    (opField c.cmd = 0x3 → decode c = .ok (.decBadmode (modeField c.cmd) (argsOf c)))) ∧
  (decodeTableWord 32 0x00080072 = some (.encBadmode 7 ⟨false, 0, 8, 0, 0, 0⟩)) ∧
  (decodeTableWord 32 0x00070072 = some (.encBadmode 7 ⟨false, 0, 7, 0, 0, 0⟩))

/-! ### Laws over instructions and runs -/

/-- 40_key_setup.md R81: only a successful SETKEY writes KEY, and only it and reset write KEY_VALID; over any run
without either, both are as they were. -/
def Obligations.OnlySetkeyWritesTheKey : Prop :=
  (∀ (i : Instr) (s t : State), isSuccessfulSetkey i = false → exec i s = .next t →
    t.key = s.key ∧ t.keyValid = s.keyValid) ∧
  (∀ (n : Nat) (s t : State), (∀ c, s.inFlight = some c → loadsKey c = false) →
    (∀ x ∈ s.port, ∃ c, x = .command c ∧ loadsKey c = false) →
    Host.Core.run Sys2Proof.core n s = .next t → t.key = s.key ∧ t.keyValid = s.keyValid)

/-- 42_block_modes.md R122: in every mode, what ENC answered DEC takes back to the block, and the other way round,
in any state with the same loaded key; under ECB the two commands need not have the same IV. -/
def Obligations.RoundTripInEveryMode : Prop :=
  ∀ (m : CipherMode) (a a' : Args) (s u : State) (c : Block),
    s.keyValid = true → u.keyValid = true → u.key = s.key →
    OperandsValid m a → OperandsValid m a' → (m ≠ .ecb → ivOperand a' = ivOperand a) → blockOperand a' = c →
      (AnswersBlock (encIn m a) s c → AnswersBlock (decIn m a') u (blockOperand a)) ∧
      (AnswersBlock (decIn m a) s c → AnswersBlock (encIn m a') u (blockOperand a))

/-- 42_block_modes.md R123: for the same key, block and IV the four commands ENC.CFB, ENC.OFB, DEC.CFB, DEC.OFB give
the same response, `block XOR TEA_E(iv)`. -/
def Obligations.CfbAndOfbCoincide : Prop :=
  ∀ (a a' : Args) (s u : State), s.keyValid = true → u.keyValid = true → u.key = s.key →
    OperandsValid .cfb a → OperandsValid .cfb a' →
    blockOperand a' = blockOperand a → ivOperand a' = ivOperand a →
    ∀ i ∈ [Instr.encCfb a, Instr.encOfb a, Instr.decCfb a, Instr.decOfb a],
    ∀ j ∈ [Instr.encCfb a', Instr.encOfb a', Instr.decCfb a', Instr.decOfb a'],
      AnswersBlock i s (xorBlock (blockOperand a) (teaE (subkeys s.key) (ivOperand a))) ∧
      AnswersBlock j u (xorBlock (blockOperand a) (teaE (subkeys s.key) (ivOperand a)))

/-- 42_block_modes.md R125 (a) to (d). -/
def Obligations.ModeIdentities : Prop :=
  (∀ (a : Args) (s : State), s.keyValid = true → OperandsValid .cbc a → ivOperand a = zeroBlock →
    (∃ b, AnswersBlock (.encCbc a) s b ∧ AnswersBlock (.encEcb a) s b) ∧
    (∃ b, AnswersBlock (.decCbc a) s b ∧ AnswersBlock (.decEcb a) s b)) ∧
  (∀ (a a' : Args) (m : BitVec 4) (s : State), s.keyValid = true → OperandsValid .cfb a →
    a'.dlen.toNat = 8 → blockOperand a = zeroBlock → blockOperand a' = ivOperand a →
    ∃ b, AnswersBlock (.encCfb a) s b ∧ AnswersBlock (.enciv m a') s b ∧ AnswersBlock (.encEcb a') s b) ∧
  (∀ (a a' : Args) (s : State), s.keyValid = true → OperandsValid .cfb a → OperandsValid .cfb a' →
    ivOperand a = ivOperand a' →
    ∃ b b', AnswersBlock (.encCfb a) s b ∧ AnswersBlock (.encCfb a') s b' ∧
      xorBlock b b' = xorBlock (blockOperand a) (blockOperand a')) ∧
  (∀ (a a' : Args) (s : State), s.keyValid = true → OperandsValid .cbc a → OperandsValid .cbc a' →
    xorBlock (blockOperand a) (ivOperand a) = xorBlock (blockOperand a') (ivOperand a') →
    ∃ b, AnswersBlock (.encCbc a) s b ∧ AnswersBlock (.encCbc a') s b)

/-- 20_memory.md R51, 42_block_modes.md R124: two commands that load no key give each the same response in either
order. -/
def Obligations.OrderOfOtherCommandsDoesNotMatter : Prop :=
  ∀ (i j : Instr) (s : State), isSuccessfulSetkey i = false → isSuccessfulSetkey j = false →
    ∃ (ri rj : Response) (t₁ t₂ u₁ u₂ : State),
      exec i s = .next t₁ ∧ t₁.responses = s.responses ++ [ri] ∧
      exec j t₁ = .next t₂ ∧ t₂.responses = t₁.responses ++ [rj] ∧
      exec j s = .next u₁ ∧ u₁.responses = s.responses ++ [rj] ∧
      exec i u₁ = .next u₂ ∧ u₂.responses = u₁.responses ++ [ri]

/-- 40_key_setup.md R82, 41_core_transform.md R101, R102, 10_state.md R31: no step can tell apart two states that
differ only in KEY while none is loaded, in the key bytes 4 to 15, in V0, V1, SUM, RND, and in the model's counter
of free values. -/
def Obligations.UnreadStateIsNeverObserved : Prop :=
  ∀ s t s' : State, Indistinguishable s t → step s = .next s' →
    ∃ t', step t = .next t' ∧ Indistinguishable s' t'

/-- 40_key_setup.md R82: two keys that agree in their first four bytes are interchangeable. -/
def Obligations.KeysAgreeingInFourBytesActAlike : Prop :=
  ∀ (i : Instr) (s : State) (key : Key), isSuccessfulSetkey i = false →
    (∀ n : Fin 4, key[n] = s.key[n]) →
    ∃ r t u, exec i s = .next t ∧ t.responses = s.responses ++ [r] ∧
      exec i { s with key := key } = .next u ∧ u.responses = s.responses ++ [r]

/-- 20_memory.md R48, 60_exceptions.md R148, 42_block_modes.md R110: the response to a command and its effect on KEY and
KEY_VALID are a function of the loaded key and of the command, the one `answerTo` and `keyAfter` spell out. -/
def Obligations.CommandIsAnsweredByKeyAndCommandAlone : Prop :=
  ∀ (s : State) (c : Command) (rest : List HostInput), Idle s → s.port = .command c :: rest →
    ∃ t, step s = .next t ∧ t.responses = s.responses ++ [answerTo (loadedKey s) c] ∧
      loadedKey t = keyAfter (loadedKey s) c ∧ t.port = rest ∧ Idle t

/-- 20_memory.md R48, 10_state.md R22, 70_reset_and_hazards.md R177: from any idle state, running everything the host
will do gives the responses, in order, and the final loaded key that the host computes from its inputs alone. -/
def Obligations.RunGivesTheHostsView : Prop :=
  ∀ s : State, Idle s →
    ∃ t, Host.Core.run Sys2Proof.core s.port.length s = .next t ∧ t.port = [] ∧ Idle t ∧
      t.responses = s.responses ++ (hostView (loadedKey s) s.port).2 ∧
      loadedKey t = (hostView (loadedKey s) s.port).1

/-- 20_memory.md R48, 10_state.md R22, 70_reset_and_hazards.md R170, R177: every step keeps the whole observable
outcome: what the host has received followed by what it will receive, and the key that will be loaded at the end, both
computed from the loaded key and the inputs still to come, are the same after the step as before it. -/
def Obligations.StepKeepsTheHostsView : Prop :=
  ∀ s t : State, Idle s → step s = .next t →
    Idle t ∧
    t.responses ++ (hostView (loadedKey t) t.port).2 = s.responses ++ (hostView (loadedKey s) s.port).2 ∧
    (hostView (loadedKey t) t.port).1 = (hostView (loadedKey s) s.port).1
end

