-- ==== Sys2Proof/Laws/Assembler.lean ====
section
/-! SUPPORT. The lanes the assembler writes, read back byte by byte (20_memory.md R43). -/

namespace Sys2Proof.Laws

open Sys2Proof Sys2Proof.Machine

/-- A lane of a byte put in front of `n` lanes. -/
theorem extract_cons (n : Nat) (b : Byte) (rest : BitVec (8 * n)) (i : Nat) (hi : i < n + 1) :
    ((b ++ rest).cast (by omega : 8 + 8 * n = 8 * (n + 1))).extractLsb' (8 * (n - i)) 8 =
      if i = 0 then b else rest.extractLsb' (8 * (n - i)) 8 := by
  cases i with
  | zero => ext j hj; simp [BitVec.getLsbD_append, BitVec.getLsbD_eq_getElem hj]
  | succ i =>
    ext j hj
    simp only [BitVec.getElem_extractLsb', BitVec.getLsbD_cast, BitVec.getLsbD_append]
    rw [if_pos (by omega)]
    simp

/-- Byte `i` of `n` lanes is the `i`-th byte written, or 0 where none is. -/
theorem lanes_byte (n : Nat) (bytes : List Byte) (i : Nat) (hi : i < n) :
    (lanes n bytes).extractLsb' (8 * (n - 1 - i)) 8 = bytes.getD i 0 := by
  induction n generalizing bytes i with
  | zero => omega
  | succ n ih =>
    cases bytes with
    | nil =>
      rw [lanes, Nat.add_sub_cancel, extract_cons n _ _ i hi]
      cases i with
      | zero => rfl
      | succ i => rw [if_neg (by omega), show n - (i + 1) = n - 1 - i by omega, ih [] i (by omega)]; rfl
    | cons b rest =>
      rw [lanes, Nat.add_sub_cancel, extract_cons n _ _ i hi]
      cases i with
      | zero => rfl
      | succ i => rw [if_neg (by omega), show n - (i + 1) = n - 1 - i by omega, ih rest i (by omega)]; rfl

theorem dBusByte_lanes (bytes : List Byte) (i : Nat) (hi : i < 16) :
    dBusByte (lanes Config.keyBytes bytes) i = bytes.getD i 0 := by
  have h := lanes_byte 16 bytes i hi
  rwa [show 8 * (16 - 1 - i) = 120 - 8 * i by omega] at h

theorem ivBusByte_lanes (bytes : List Byte) (i : Nat) (hi : i < 8) :
    ivBusByte (lanes Config.ivBytes bytes) i = bytes.getD i 0 := by
  have h := lanes_byte 8 bytes i hi
  rwa [show 8 * (8 - 1 - i) = 56 - 8 * i by omega] at h

/-- A length below 256 is declared as it is (30_encoding.md R64). -/
theorem lengthField_eq (bytes : List Byte) (h : bytes.length < 256) :
    lengthField bytes = some (BitVec.ofNat 8 bytes.length) := if_pos h

end Sys2Proof.Laws
end

