-- ==== Sys2Proof/Laws/Encoding.lean ====
section
/-! SUPPORT. The bit-field and byte-order helpers as numbers: each field of a command word has its place value, and a
32-bit value its four bytes. -/

namespace Sys2Proof.Laws

open Sys2Proof Sys2Proof.Machine

/-- Concatenation puts the left part above the right one. -/
theorem toNat_append_eq {n m : Nat} (x : BitVec n) (y : BitVec m) :
    (x ++ y).toNat = x.toNat * 2 ^ m + y.toNat := by
  rw [BitVec.toNat_append, ← Nat.shiftLeft_add_eq_or_of_lt y.isLt, Nat.shiftLeft_eq]

/-- The place values of the fields of a command word (30_encoding.md R60). -/
theorem commandWord_toNat (mode op : BitVec 4) (a : Args) :
    (commandWord mode op a).toNat =
      a.ivlen.toNat * 2 ^ 24 + a.dlen.toNat * 2 ^ 16 + a.reserved.toNat * 2 ^ 9 +
        a.ivp.toNat * 2 ^ 8 + mode.toNat * 2 ^ 4 + op.toNat := by
  unfold commandWord
  rw [toNat_append_eq, toNat_append_eq, toNat_append_eq, toNat_append_eq, toNat_append_eq,
    BitVec.toNat_ofBool]
  omega

/-- The place values of the bytes of a word (00_scope.md R8). -/
theorem be32_toNat (b0 b1 b2 b3 : Byte) :
    (be32 b0 b1 b2 b3).toNat =
      b0.toNat * 2 ^ 24 + b1.toNat * 2 ^ 16 + b2.toNat * 2 ^ 8 + b3.toNat := by
  unfold be32
  rw [toNat_append_eq, toNat_append_eq, toNat_append_eq]
  omega

/-- A mask of low ones is a remainder. -/
theorem toNat_and_ones {w : Nat} (x m : BitVec w) (n : Nat) (h : m.toNat = 2 ^ n - 1) :
    (x &&& m).toNat = x.toNat % 2 ^ n := by
  rw [BitVec.toNat_and, h, Nat.and_two_pow_sub_one_eq_mod]

theorem opField_toNat (cmd : BitVec 32) : (opField cmd).toNat = cmd.toNat % 2 ^ 4 := by
  simp [opField]

theorem modeField_toNat (cmd : BitVec 32) :
    (modeField cmd).toNat = cmd.toNat / 2 ^ 4 % 2 ^ 4 := by
  simp [modeField, Nat.shiftRight_eq_div_pow]

end Sys2Proof.Laws
end

