-- ==== Sys2Proof/Laws/Engine.lean ====
section
/-! SUPPORT. The round engine: iterating rounds, and what the sequencer has in its registers after `n` ticks. -/

namespace Sys2Proof.Laws

open Sys2Proof Sys2Proof.Machine

/-- The last round of `n + 1` on its own. -/
theorem iterateRounds_succ_last (f : Word × Word × Word → Word × Word × Word) (n : Nat)
    (t : Word × Word × Word) : iterateRounds f (n + 1) t = f (iterateRounds f n t) := by
  induction n generalizing t with
  | zero => rfl
  | succ n ih => exact ih (f t)

@[simp] theorem roundE_sum (k : Subkeys) (t : Word × Word × Word) : (roundE k t).2.2 = t.2.2 + delta := rfl

@[simp] theorem roundD_sum (k : Subkeys) (t : Word × Word × Word) : (roundD k t).2.2 = t.2.2 - delta := rfl

/-- While RND is below 32, a tick is one round and RND goes up by one. -/
theorem engineTick_running (dir : Direction) (k : Subkeys) (r : RoundState) (h : r.rnd.val < 32) :
    (((engineTick dir k r).v0, (engineTick dir k r).v1, (engineTick dir k r).sum) =
      roundOf dir k (r.v0, r.v1, r.sum)) ∧ (engineTick dir k r).rnd.val = r.rnd.val + 1 := by
  have h' : r.rnd.val < rounds := h
  simp only [engineTick, h', if_true, true_and]
  rw [Fin.val_add]
  exact Nat.mod_eq_of_lt (by simpa using Nat.succ_lt_succ h)

/-- At RND = 32 the engine has stopped. -/
theorem engineTick_stopped (dir : Direction) (k : Subkeys) (r : RoundState) (h : r.rnd.val = 32) :
    engineTick dir k r = r := by
  simp [engineTick, rounds, h]

/-- `n` ticks of an engine with at least `n` rounds to go are `n` rounds. -/
theorem engineTicks_running (dir : Direction) (k : Subkeys) (n : Nat) (r : RoundState)
    (h : r.rnd.val + n ≤ 32) :
    (((engineTicks dir k n r).v0, (engineTicks dir k n r).v1, (engineTicks dir k n r).sum) =
      iterateRounds (roundOf dir k) n (r.v0, r.v1, r.sum)) ∧
      (engineTicks dir k n r).rnd.val = r.rnd.val + n := by
  induction n generalizing r with
  | zero => exact ⟨rfl, rfl⟩
  | succ n ih =>
    obtain ⟨ht, hr⟩ := engineTick_running dir k r (by omega)
    obtain ⟨ih₁, ih₂⟩ := ih (engineTick dir k r) (by omega)
    exact ⟨by rw [engineTicks, ih₁, ht, iterateRounds], by rw [engineTicks, ih₂, hr]; omega⟩

/-- A stopped engine stays as it is. -/
theorem engineTicks_stopped (dir : Direction) (k : Subkeys) (n : Nat) (r : RoundState)
    (h : r.rnd.val = 32) : engineTicks dir k n r = r := by
  induction n with
  | zero => rfl
  | succ n ih => rw [engineTicks, engineTick_stopped dir k r h, ih]

/-- The registers after a whole transform. -/
theorem engineRun_spec (dir : Direction) (k : Subkeys) (b : Block) :
    (((engineRun dir k b).v0, (engineRun dir k b).v1, (engineRun dir k b).sum) =
      iterateRounds (roundOf dir k) 32 ((unpack b).1, (unpack b).2, startSum dir)) ∧
      (engineRun dir k b).rnd.val = 32 := by
  unfold engineRun
  simpa [engineLoad, rounds] using engineTicks_running dir k 32 (engineLoad dir b) (by simp [engineLoad])

/-- Ticks compose. -/
theorem engineTicks_add (dir : Direction) (k : Subkeys) (m n : Nat) (r : RoundState) :
    engineTicks dir k (m + n) r = engineTicks dir k n (engineTicks dir k m r) := by
  induction m generalizing r with
  | zero => simp [engineTicks]
  | succ m ih => rw [Nat.succ_add]; exact ih (engineTick dir k r)

end Sys2Proof.Laws
end

