-- ==== Sys2Proof/Laws/State.lean ====
section
/-! SUPPORT. What each shared operation does to each field of the state, and what a state looks like after it. -/

namespace Sys2Proof.Laws

open Sys2Proof Sys2Proof.Machine

@[simp] theorem keyBytes_eq : Config.keyBytes = 16 := rfl
@[simp] theorem blockBytes_eq : Config.blockBytes = 8 := rfl
@[simp] theorem ivBytes_eq : Config.ivBytes = 8 := rfl

@[simp] theorem busy_eq_isSome (s : State) : s.busy = s.inFlight.isSome := rfl

@[simp] theorem respond_key (r : Response) (s : State) : (respond r s).key = s.key := rfl
@[simp] theorem respond_keyValid (r : Response) (s : State) : (respond r s).keyValid = s.keyValid := rfl
@[simp] theorem respond_round (r : Response) (s : State) : (respond r s).round = s.round := rfl
@[simp] theorem respond_inFlight (r : Response) (s : State) : (respond r s).inFlight = none := rfl
@[simp] theorem respond_port (r : Response) (s : State) : (respond r s).port = s.port := rfl
@[simp] theorem respond_responses (r : Response) (s : State) :
    (respond r s).responses = s.responses ++ [r] := rfl
@[simp] theorem respond_freeCount (r : Response) (s : State) : (respond r s).freeCount = s.freeCount := rfl

@[simp] theorem raiseError_key (k : ErrorKind) (s : State) : (raiseError k s).key = s.key := rfl
@[simp] theorem raiseError_keyValid (k : ErrorKind) (s : State) :
    (raiseError k s).keyValid = s.keyValid := rfl
@[simp] theorem raiseError_round (k : ErrorKind) (s : State) : (raiseError k s).round = s.round := rfl
@[simp] theorem raiseError_inFlight (k : ErrorKind) (s : State) : (raiseError k s).inFlight = none := rfl
@[simp] theorem raiseError_port (k : ErrorKind) (s : State) : (raiseError k s).port = s.port := rfl
@[simp] theorem raiseError_responses (k : ErrorKind) (s : State) :
    (raiseError k s).responses = s.responses ++ [.error k] := rfl
@[simp] theorem raiseError_freeCount (k : ErrorKind) (s : State) :
    (raiseError k s).freeCount = s.freeCount := rfl

@[simp] theorem answerIllegal_key (s : State) : (answerIllegal s).key = s.key := rfl
@[simp] theorem answerIllegal_keyValid (s : State) : (answerIllegal s).keyValid = s.keyValid := rfl
@[simp] theorem answerIllegal_round (s : State) : (answerIllegal s).round = s.round := rfl
@[simp] theorem answerIllegal_inFlight (s : State) : (answerIllegal s).inFlight = none := rfl
@[simp] theorem answerIllegal_port (s : State) : (answerIllegal s).port = s.port := rfl
@[simp] theorem answerIllegal_responses (s : State) :
    (answerIllegal s).responses = s.responses ++ [.error .illegalCmd] := rfl
@[simp] theorem answerIllegal_freeCount (s : State) : (answerIllegal s).freeCount = s.freeCount := rfl

@[simp] theorem releaseRound_key (s : State) : (releaseRound s).key = s.key := rfl
@[simp] theorem releaseRound_keyValid (s : State) : (releaseRound s).keyValid = s.keyValid := rfl
@[simp] theorem releaseRound_round (s : State) :
    (releaseRound s).round = RoundState.unspecified s.freeCount := rfl
@[simp] theorem releaseRound_inFlight (s : State) : (releaseRound s).inFlight = s.inFlight := rfl
@[simp] theorem releaseRound_port (s : State) : (releaseRound s).port = s.port := rfl
@[simp] theorem releaseRound_responses (s : State) : (releaseRound s).responses = s.responses := rfl
@[simp] theorem releaseRound_freeCount (s : State) : (releaseRound s).freeCount = s.freeCount + 1 := rfl

@[simp] theorem loadKey_key (k : Key) (s : State) : (loadKey k s).key = k := rfl
@[simp] theorem loadKey_keyValid (k : Key) (s : State) : (loadKey k s).keyValid = true := rfl
@[simp] theorem loadKey_round (k : Key) (s : State) : (loadKey k s).round = s.round := rfl
@[simp] theorem loadKey_inFlight (k : Key) (s : State) : (loadKey k s).inFlight = s.inFlight := rfl
@[simp] theorem loadKey_port (k : Key) (s : State) : (loadKey k s).port = s.port := rfl
@[simp] theorem loadKey_responses (k : Key) (s : State) : (loadKey k s).responses = s.responses := rfl
@[simp] theorem loadKey_freeCount (k : Key) (s : State) : (loadKey k s).freeCount = s.freeCount := rfl

@[simp] theorem runEngine_key (dir : Direction) (b : Block) (s : State) :
    (runEngine dir b s).key = s.key := rfl
@[simp] theorem runEngine_keyValid (dir : Direction) (b : Block) (s : State) :
    (runEngine dir b s).keyValid = s.keyValid := rfl
@[simp] theorem runEngine_round (dir : Direction) (b : Block) (s : State) :
    (runEngine dir b s).round = engineRun dir (subkeys s.key) b := rfl
@[simp] theorem runEngine_inFlight (dir : Direction) (b : Block) (s : State) :
    (runEngine dir b s).inFlight = s.inFlight := rfl
@[simp] theorem runEngine_port (dir : Direction) (b : Block) (s : State) :
    (runEngine dir b s).port = s.port := rfl
@[simp] theorem runEngine_responses (dir : Direction) (b : Block) (s : State) :
    (runEngine dir b s).responses = s.responses := rfl
@[simp] theorem runEngine_freeCount (dir : Direction) (b : Block) (s : State) :
    (runEngine dir b s).freeCount = s.freeCount := rfl

@[simp] theorem transformAndAnswer_key (dir : Direction) (b : Block) (post : Block → Block) (s : State) :
    (transformAndAnswer dir b post s).key = s.key := rfl
@[simp] theorem transformAndAnswer_keyValid (dir : Direction) (b : Block) (post : Block → Block) (s : State) :
    (transformAndAnswer dir b post s).keyValid = s.keyValid := rfl
@[simp] theorem transformAndAnswer_round (dir : Direction) (b : Block) (post : Block → Block) (s : State) :
    (transformAndAnswer dir b post s).round = RoundState.unspecified s.freeCount := rfl
@[simp] theorem transformAndAnswer_inFlight (dir : Direction) (b : Block) (post : Block → Block) (s : State) :
    (transformAndAnswer dir b post s).inFlight = none := rfl
@[simp] theorem transformAndAnswer_port (dir : Direction) (b : Block) (post : Block → Block) (s : State) :
    (transformAndAnswer dir b post s).port = s.port := rfl
@[simp] theorem transformAndAnswer_responses (dir : Direction) (b : Block) (post : Block → Block) (s : State) :
    (transformAndAnswer dir b post s).responses = s.responses ++ [.block (post (engineOutput (engineRun dir (subkeys s.key) b)))] := rfl
@[simp] theorem transformAndAnswer_freeCount (dir : Direction) (b : Block) (post : Block → Block) (s : State) :
    (transformAndAnswer dir b post s).freeCount = s.freeCount + 1 := rfl

@[simp] theorem accept_key (c : Command) (rest : List HostInput) (s : State) :
    (accept c rest s).key = s.key := rfl
@[simp] theorem accept_keyValid (c : Command) (rest : List HostInput) (s : State) :
    (accept c rest s).keyValid = s.keyValid := rfl
@[simp] theorem accept_round (c : Command) (rest : List HostInput) (s : State) :
    (accept c rest s).round = s.round := rfl
@[simp] theorem accept_inFlight (c : Command) (rest : List HostInput) (s : State) :
    (accept c rest s).inFlight = some c := rfl
@[simp] theorem accept_port (c : Command) (rest : List HostInput) (s : State) :
    (accept c rest s).port = rest := rfl
@[simp] theorem accept_responses (c : Command) (rest : List HostInput) (s : State) :
    (accept c rest s).responses = s.responses := rfl
@[simp] theorem accept_freeCount (c : Command) (rest : List HostInput) (s : State) :
    (accept c rest s).freeCount = s.freeCount := rfl

@[simp] theorem takeReset_key (rest : List HostInput) (s : State) :
    (takeReset rest s).key = Config.freeKey s.freeCount := rfl
@[simp] theorem takeReset_keyValid (rest : List HostInput) (s : State) :
    (takeReset rest s).keyValid = false := rfl
@[simp] theorem takeReset_round (rest : List HostInput) (s : State) :
    (takeReset rest s).round = RoundState.unspecified s.freeCount := rfl
@[simp] theorem takeReset_inFlight (rest : List HostInput) (s : State) :
    (takeReset rest s).inFlight = none := rfl
@[simp] theorem takeReset_port (rest : List HostInput) (s : State) : (takeReset rest s).port = rest := rfl
@[simp] theorem takeReset_responses (rest : List HostInput) (s : State) :
    (takeReset rest s).responses = s.responses := rfl
@[simp] theorem takeReset_freeCount (rest : List HostInput) (s : State) :
    (takeReset rest s).freeCount = s.freeCount + 1 := rfl

/-- An accepted command that is answered at once leaves the state as it was but for the port and the response. -/
theorem respond_accept (r : Response) (c : Command) (rest : List HostInput) (s : State)
    (h : s.inFlight = none) :
    respond r (accept c rest s) = { s with port := rest, responses := s.responses ++ [r] } := by
  cases s; cases h; rfl

/-- The engine's contents before a transform do not show after it. -/
theorem transformAndAnswer_eq (dir : Direction) (b : Block) (post : Block → Block) (s : State) :
    transformAndAnswer dir b post s = releaseRound (respond
      (.block (post (engineOutput (engineRun dir (subkeys s.key) b)))) s) := rfl

end Sys2Proof.Laws
end

