-- ==== Sys2Proof/Laws/Ops.lean ====
section
/-! SUPPORT. One lemma for each shared operation that says everything it can do: validation, a block command, a step. -/

namespace Sys2Proof.Laws

open Sys2Proof Sys2Proof.Machine

/-- VALIDATE passes exactly under a loaded key, a block of eight bytes, and an IV of eight bytes where the mode
requires one. -/
theorem validate_eq_none_iff (m : CipherMode) (a : Args) (s : State) :
    validate (some m) a s = none ↔
      s.keyValid = true ∧ a.dlen.toNat = 8 ∧ (m ≠ .ecb → a.ivp = true ∧ a.ivlen.toNat = 8) := by
  cases hk : s.keyValid <;> cases m <;>
    by_cases hd : a.dlen.toNat = 8 <;>
    simp [validate, hk, hd, declaredLength, requiresIv, ivSupplied]

/-- A mode code that is no variant never passes. -/
theorem validate_none_isSome (a : Args) (s : State) : ∃ e, validate none a s = some e := by
  unfold validate
  split
  · exact ⟨_, rfl⟩
  · split <;> exact ⟨_, rfl⟩

/-- VALIDATE reads KEY_VALID and nothing else of the state. -/
theorem validate_congr (mode : Option CipherMode) (a : Args) (s t : State) (h : s.keyValid = t.keyValid) :
    validate mode a s = validate mode a t := by
  simp only [validate, h]

/-- A block command raises what VALIDATE found, or runs the engine once. -/
theorem blockCommand_cases (m : CipherMode) (pre : EngineInput) (dir : Direction) (post : ResultSelect)
    (a : Args) (s : State) :
    (∃ e, validate (some m) a s = some e ∧ blockCommand m pre dir post a s = raiseError e s) ∨
    (validate (some m) a s = none ∧
      blockCommand m pre dir post a s =
        transformAndAnswer dir (preProcess pre (blockOperand a) (ivOperand a))
          (postProcess post (blockOperand a) (ivOperand a)) s) := by
  unfold blockCommand
  split
  · next e he => exact .inl ⟨e, he, rfl⟩
  · next he => exact .inr ⟨he, rfl⟩

/-- A command whose mode code is no variant raises what VALIDATE found. -/
theorem badModeCommand_eq (a : Args) (s : State) :
    ∃ e, validate none a s = some e ∧ badModeCommand a s = raiseError e s := by
  obtain ⟨e, he⟩ := validate_none_isSome a s
  exact ⟨e, he, by simp only [badModeCommand, he]⟩

/-- What running a block command can be. -/
theorem next_blockCommand_cases (m : CipherMode) (pre : EngineInput) (dir : Direction)
    (post : ResultSelect) (a : Args) (s : State) (o : Host.Outcome State Fault Refusal)
    (ho : o = .next (blockCommand m pre dir post a s)) :
    (∃ k, o = .next (raiseError k s)) ∨
    (∃ dir b post, s.keyValid = true ∧ o = .next (transformAndAnswer dir b post s)) := by
  rcases blockCommand_cases m pre dir post a s with ⟨e, -, h⟩ | ⟨hv, h⟩
  · exact .inl ⟨e, by rw [ho, h]⟩
  · exact .inr ⟨_, _, _, ((validate_eq_none_iff m a s).mp hv).1, by rw [ho, h]⟩

/-- What one instruction can do: raise an error, load a key (a successful SETKEY), or run the engine once under a
loaded key and answer with a block. -/
theorem exec_cases (i : Instr) (s : State) :
    (∃ k, exec i s = .next (raiseError k s)) ∨
    (∃ m a, i = .setkey m a ∧ a.dlen.toNat = 16 ∧
      exec i s = .next (respond .keyLoaded (loadKey (keyOperand a) s))) ∨
    (∃ dir b post, s.keyValid = true ∧ exec i s = .next (transformAndAnswer dir b post s)) := by
  cases i with
  | setkey m a =>
    by_cases h : a.dlen.toNat = 16
    · exact .inr (.inl ⟨m, a, rfl, h, by simp [exec, execSetkey, declaredLength, h]⟩)
    · exact .inl ⟨.invalidKey, by simp [exec, execSetkey, declaredLength, h]⟩
  | enciv m a =>
    cases hv : s.keyValid with
    | false => exact .inl ⟨.noKey, by simp [exec, execEnciv, hv]⟩
    | true =>
      by_cases h : a.dlen.toNat = 8
      · exact .inr (.inr ⟨.encrypt, blockOperand a, fun out => out, rfl, by
          simp only [exec, execEnciv, hv, declaredLength, h, ivBytes_eq, ne_eq, not_true_eq_false,
            if_false, Bool.true_eq_false]⟩)
      · exact .inl ⟨.invalidIv, by simp [exec, execEnciv, hv, declaredLength, h]⟩
  | encBadmode m a =>
    obtain ⟨e, -, h⟩ := badModeCommand_eq a s
    exact .inl ⟨e, by simp only [exec, execEncBadmode, h]⟩
  | decBadmode m a =>
    obtain ⟨e, -, h⟩ := badModeCommand_eq a s
    exact .inl ⟨e, by simp only [exec, execDecBadmode, h]⟩
  | encEcb a => exact (next_blockCommand_cases _ _ _ _ a s _ rfl).imp_right .inr
  | encCbc a => exact (next_blockCommand_cases _ _ _ _ a s _ rfl).imp_right .inr
  | encCfb a => exact (next_blockCommand_cases _ _ _ _ a s _ rfl).imp_right .inr
  | encOfb a => exact (next_blockCommand_cases _ _ _ _ a s _ rfl).imp_right .inr
  | decEcb a => exact (next_blockCommand_cases _ _ _ _ a s _ rfl).imp_right .inr
  | decCbc a => exact (next_blockCommand_cases _ _ _ _ a s _ rfl).imp_right .inr
  | decCfb a => exact (next_blockCommand_cases _ _ _ _ a s _ rfl).imp_right .inr
  | decOfb a => exact (next_blockCommand_cases _ _ _ _ a s _ rfl).imp_right .inr

/-- What one step can be: a reset, the run of a command (held, or just accepted), or nothing. -/
theorem step_cases (s : State) :
    (∃ rest, s.port = .reset :: rest ∧ step s = .next (takeReset rest s)) ∨
    (∃ c, s.inFlight = some c ∧ s.port.head? ≠ some .reset ∧ step s = runCommand c s) ∨
    (∃ c rest, s.inFlight = none ∧ s.port = .command c :: rest ∧
      step s = runCommand c (accept c rest s)) ∨
    (s.inFlight = none ∧ s.port = [] ∧ step s = .next s) := by
  unfold step
  split
  · next rest hp => exact .inl ⟨rest, hp, rfl⟩
  · next c hi hp =>
    refine .inr (.inl ⟨c, hi, fun h => ?_, rfl⟩)
    obtain ⟨rest, hr⟩ := List.head?_eq_some_iff.mp h
    exact hp rest hr
  · next c rest hp hi => exact .inr (.inr (.inl ⟨c, rest, hi, hp, rfl⟩))
  · next hp hi => exact .inr (.inr (.inr ⟨hi, hp, rfl⟩))

/-- A run of `n + 1` steps of any core whose first step is known. -/
theorem core_run_succ (M : Host.Core) {s t : M.State} (n : Nat) (h : M.step s = .next t) :
    M.run (n + 1) s = M.run n t := by
  rw [Host.Core.run, h]

/-- A run of `n + 1` steps whose first step is known. -/
theorem run_succ {s t : State} (n : Nat) (h : step s = .next t) :
    Host.Core.run Sys2Proof.core (n + 1) s = Host.Core.run Sys2Proof.core n t :=
  core_run_succ Sys2Proof.core n h

end Sys2Proof.Laws
end

