-- ==== Sys2Proof/Laws/PerInstr.lean ====
section
/-! SUPPORT. A law of the encoder for every instruction: its word fits its own row of the command table (R69). -/

namespace Sys2Proof.Laws

/-- The low nibble of a command word is OP. -/
theorem commandWord_and_0xF (mode op : BitVec 4) (a : Args) :
    commandWord mode op a &&& 15#32 = op.setWidth 32 := by
  refine BitVec.eq_of_toNat_eq ?_
  rw [toNat_and_ones _ _ 4 rfl, commandWord_toNat, BitVec.toNat_setWidth]
  omega

/-- The low byte of a command word is MODE and OP. -/
theorem commandWord_and_0xFF (mode op : BitVec 4) (a : Args) :
    commandWord mode op a &&& 255#32 = (mode ++ op).setWidth 32 := by
  refine BitVec.eq_of_toNat_eq ?_
  rw [toNat_and_ones _ _ 8 rfl, commandWord_toNat, BitVec.toNat_setWidth, toNat_append_eq]
  omega

end Sys2Proof.Laws

namespace Sys2Proof.Laws.TableRow

/-- The word of the instruction fits the row of the command table that has its mnemonic. -/
def Statement (i : Instr) : Prop :=
  ∃ row ∈ commandTable, row.mnemonic = mnemonic i ∧ row.fits (encode i).cmd = true

/-- A row whose mask leaves MODE open. -/
theorem fits_op (name : String) (op mode : BitVec 4) (a : Args) :
    (⟨name, op.setWidth 32, 0x0000000F⟩ : TableRow).fits (commandWord mode op a) = true := by
  simp [Sys2Proof.TableRow.fits, commandWord_and_0xF]

/-- A row whose mask fixes MODE and OP. -/
theorem fits_mode (name : String) (op mode : BitVec 4) (a : Args) :
    (⟨name, (mode ++ op).setWidth 32, 0x000000FF⟩ : TableRow).fits (commandWord mode op a) = true := by
  simp [Sys2Proof.TableRow.fits, commandWord_and_0xFF]

theorem setkey (mode : BitVec 4) (a : Args) : Statement (.setkey mode a) :=
  ⟨_, by simp [commandTable], rfl, fits_op "SETKEY" 0x1 mode a⟩

theorem enciv (mode : BitVec 4) (a : Args) : Statement (.enciv mode a) :=
  ⟨_, by simp [commandTable], rfl, fits_op "ENCIV" 0x4 mode a⟩

theorem encBadmode (mode : BitVec 4) (a : Args) : Statement (.encBadmode mode a) :=
  ⟨_, by simp [commandTable], rfl, fits_op "ENC.BADMODE" 0x2 mode a⟩

theorem decBadmode (mode : BitVec 4) (a : Args) : Statement (.decBadmode mode a) :=
  ⟨_, by simp [commandTable], rfl, fits_op "DEC.BADMODE" 0x3 mode a⟩

theorem encEcb (a : Args) : Statement (.encEcb a) :=
  ⟨_, by simp [commandTable], rfl, fits_mode "ENC.ECB" 0x2 0x0 a⟩

theorem encCbc (a : Args) : Statement (.encCbc a) :=
  ⟨_, by simp [commandTable], rfl, fits_mode "ENC.CBC" 0x2 0x1 a⟩

theorem encCfb (a : Args) : Statement (.encCfb a) :=
  ⟨_, by simp [commandTable], rfl, fits_mode "ENC.CFB" 0x2 0x2 a⟩

theorem encOfb (a : Args) : Statement (.encOfb a) :=
  ⟨_, by simp [commandTable], rfl, fits_mode "ENC.OFB" 0x2 0x3 a⟩

theorem decEcb (a : Args) : Statement (.decEcb a) :=
  ⟨_, by simp [commandTable], rfl, fits_mode "DEC.ECB" 0x3 0x0 a⟩

theorem decCbc (a : Args) : Statement (.decCbc a) :=
  ⟨_, by simp [commandTable], rfl, fits_mode "DEC.CBC" 0x3 0x1 a⟩

theorem decCfb (a : Args) : Statement (.decCfb a) :=
  ⟨_, by simp [commandTable], rfl, fits_mode "DEC.CFB" 0x3 0x2 a⟩

theorem decOfb (a : Args) : Statement (.decOfb a) :=
  ⟨_, by simp [commandTable], rfl, fits_mode "DEC.OFB" 0x3 0x3 a⟩

end Sys2Proof.Laws.TableRow
end

