-- ==== Sys2Proof/Tests/Slice0.lean ====
section
/-! SUPPORT. Tests (expected values from the spec's worked words, 30_encoding.md R69, and 95_test_vectors.md, cited at
each), and a witness for the hypotheses of every statement that has some. -/

namespace Sys2Proof.Tests

open Sys2Proof Sys2Proof.Machine

/-! ### Well-formedness: the one check, with terms it refuses -/

theorem test_wf_refuses_encBadmode_of_a_variant :
    (Instr.encBadmode 0 ⟨false, 0, 8, 0, 0, 0⟩).wf = false ∧
    (Instr.encBadmode 3 ⟨false, 0, 8, 0, 0, 0⟩).wf = false := by decide

theorem test_wf_refuses_decBadmode_of_a_variant :
    (Instr.decBadmode 0 ⟨false, 0, 8, 0, 0, 0⟩).wf = false ∧
    (Instr.decBadmode 3 ⟨false, 0, 8, 0, 0, 0⟩).wf = false := by decide

theorem test_wf_accepts_codes_that_are_no_variant :
    (Instr.encBadmode 4 ⟨false, 0, 8, 0, 0, 0⟩).wf = true ∧
    (Instr.decBadmode 15 ⟨false, 0, 8, 0, 0, 0⟩).wf = true := by decide

/-! ### Decoding: a word of every constructor, its fields written out from R60 (IVLEN, DLEN, reserved, IVP, MODE, OP) -/

/-- The fields of a command word, most significant first (R60). -/
def bits (ivlen dlen : BitVec 8) (reserved : BitVec 7) (ivp : BitVec 1) (mode op : BitVec 4) : Nat :=
  (ivlen ++ dlen ++ reserved ++ ivp ++ mode ++ op).toNat

/-- The fields give the words that T13 prints. -/
theorem test_bits_are_the_words_of_T13 :
    bits 0b00000000 0b00010000 0b0000000 0b0 0b0000 0b0001 = 0x00100001 ∧
    bits 0b00001000 0b00001000 0b0000000 0b1 0b0001 0b0010 = 0x08080112 ∧
    bits 0b00001000 0b00001000 0b1111111 0b1 0b0001 0b0010 = 0x0808FF12 ∧
    bits 0b00000000 0b00001000 0b0000000 0b0 0b0111 0b0010 = 0x00080072 := by decide

theorem test_decode_setkey : decodeTableWord 32 (bits 0b00000000 0b00010000 0b0000000 0b0 0b0000 0b0001) =
    some (.setkey 0 ⟨false, 0, 16, 0, 0, 0⟩) := by decide

theorem test_decode_encEcb : decodeTableWord 32 (bits 0b00000000 0b00001000 0b0000000 0b0 0b0000 0b0010) =
    some (.encEcb ⟨false, 0, 8, 0, 0, 0⟩) := by decide

theorem test_decode_encCbc : decodeTableWord 32 (bits 0b00001000 0b00001000 0b0000000 0b1 0b0001 0b0010) =
    some (.encCbc ⟨true, 0, 8, 8, 0, 0⟩) := by decide

theorem test_decode_encCfb : decodeTableWord 32 (bits 0b00001000 0b00001000 0b0000000 0b1 0b0010 0b0010) =
    some (.encCfb ⟨true, 0, 8, 8, 0, 0⟩) := by decide

theorem test_decode_encOfb : decodeTableWord 32 (bits 0b00001000 0b00001000 0b0000000 0b1 0b0011 0b0010) =
    some (.encOfb ⟨true, 0, 8, 8, 0, 0⟩) := by decide

theorem test_decode_decEcb : decodeTableWord 32 (bits 0b00000000 0b00001000 0b0000000 0b0 0b0000 0b0011) =
    some (.decEcb ⟨false, 0, 8, 0, 0, 0⟩) := by decide

theorem test_decode_decCbc : decodeTableWord 32 (bits 0b00001000 0b00001000 0b0000000 0b1 0b0001 0b0011) =
    some (.decCbc ⟨true, 0, 8, 8, 0, 0⟩) := by decide

theorem test_decode_decCfb : decodeTableWord 32 (bits 0b00001000 0b00001000 0b0000000 0b1 0b0010 0b0011) =
    some (.decCfb ⟨true, 0, 8, 8, 0, 0⟩) := by decide

theorem test_decode_decOfb : decodeTableWord 32 (bits 0b00001000 0b00001000 0b0000000 0b1 0b0011 0b0011) =
    some (.decOfb ⟨true, 0, 8, 8, 0, 0⟩) := by decide

theorem test_decode_enciv : decodeTableWord 32 (bits 0b00000000 0b00001000 0b0000000 0b0 0b0000 0b0100) =
    some (.enciv 0 ⟨false, 0, 8, 0, 0, 0⟩) := by decide

theorem test_decode_encBadmode : decodeTableWord 32 (bits 0b00000000 0b00001000 0b0000000 0b0 0b0111 0b0010) =
    some (.encBadmode 7 ⟨false, 0, 8, 0, 0, 0⟩) := by decide

theorem test_decode_decBadmode : decodeTableWord 32 (bits 0b00000000 0b00001000 0b0000000 0b0 0b1001 0b0011) =
    some (.decBadmode 9 ⟨false, 0, 8, 0, 0, 0⟩) := by decide

/-- Reserved operation codes, at the edges of their two ranges (R67 (a), T12 rows 15, 16, 20). -/
theorem test_decode_refuses_reserved_op :
    decodeTableWord 32 0x00080000 = none ∧ decodeTableWord 32 0x00080005 = none ∧
    decodeTableWord 32 0xFFFF01FF = none := by decide

/-- The places of the operand buses beside the word: CMD, then D, then IV, at their edges (log 3). -/
theorem test_decode_operand_buses :
    decodeTableWord 224 (0x00080002 + 1 * 2 ^ 32 + 1 * 2 ^ 159 + 3 * 2 ^ 160 + 1 * 2 ^ 223) =
      some (.encEcb ⟨false, 0, 8, 0, 0x80000000000000000000000000000001, 0x8000000000000003⟩) := by
  decide +kernel

/-! ### States and one step -/

/-- 95_test_vectors.md, the key KZ. -/
def keyZ : Key := Vector.replicate 16 0

/-- 95_test_vectors.md, the key KA. -/
def keyA : Key := #v[0, 1, 2, 3, 4, 5, 6, 7, 8, 9, 10, 11, 12, 13, 14, 15]

/-- 95_test_vectors.md, the key KF. -/
def keyF : Key := Vector.replicate 16 0xFF

/-- An idle core with a key loaded. -/
def keyed (key : Key) : State :=
  { key := key
    keyValid := true
    round := ⟨0, 0, 0, 0⟩
    inFlight := none
    port := []
    responses := []
    freeCount := 0 }

/-- An idle core with no key loaded (its KEY is none of the keys above). -/
def unkeyed : State := { keyed (Vector.replicate 16 0x5A) with keyValid := false }

/-- The core with a command at the port. -/
def presented (c : Command) (s : State) : State := { s with port := [.command c] }

/-- A step whose outcome is a next state. -/
def nextOf (s : State) : Option State :=
  match step s with
  | .next t => some t
  | .fault _ => none
  | .refused _ => none

/-- STATUS and RESULT (R66) of the one response of a step on a command. -/
def answerToCommand (c : Command) (s : State) : Option (BitVec 4 × BitVec 64) :=
  match nextOf (presented c s) with
  | some t =>
    match t.responses with
    | [r] => some (statusCode r, resultBus r)
    | _ => none
  | none => none

/-- STATUS and RESULT for a line of assembler text (R71). -/
def answer (text : String) (s : State) : Option (BitVec 4 × BitVec 64) :=
  ((parseLine text).bind assemble).bind fun c => answerToCommand c s

/-- KEY_VALID and KEY after a step on a line. -/
def keyAfterLine (text : String) (s : State) : Option (Bool × Key) :=
  ((parseLine text).bind assemble).bind fun c =>
    (nextOf (presented c s)).map fun t => (t.keyValid, t.key)

/-! ### The engine -/

/-- 95_test_vectors.md T0. -/
theorem test_mix_T0 :
    mix 0x80000000 0 0 0 = 0x84000000 ∧ mix 0x10000000 0xFFFFFFFF 0 0 = 0x0F7FFFFF ∧
    mix 0x0000001F 0 0 0xFF = 0x00000110 ∧ mix 0xFFFFFFFF 0x9E3779B9 0xFF 0xFF = 0x963779A9 ∧
    mix 0xF477C37C 0x9E3779B9 2 3 = 0xD270B4E9 := by decide +kernel

/-- 41_core_transform.md R92, the example, and T2 round 2. -/
theorem test_roundE :
    roundE ⟨0, 1, 2, 3⟩ (0x01020304, 0x05060708, 0) = (0xF477C37C, 0xD776BBF1, 0x9E3779B9) ∧
    roundE ⟨0, 1, 2, 3⟩ (0xF477C37C, 0xD776BBF1, 0x9E3779B9) =
      (0x56AD690F, 0xD2F66329, 0x3C6EF372) := by decide +kernel

/-- 95_test_vectors.md T3, first and last backward round. -/
theorem test_roundD :
    roundD ⟨0, 1, 2, 3⟩ (0xF9C61A4E, 0x31EB8BB6, 0xC6EF3720) =
      (0x03C0FBB0, 0xD6D0C65D, 0x28B7BD67) ∧
    roundD ⟨0, 1, 2, 3⟩ (0xF477C37C, 0xD776BBF1, 0x9E3779B9) =
      (0x01020304, 0x05060708, 0) := by decide +kernel

/-- 95_test_vectors.md T2: the registers after 17 of the 32 rounds. -/
theorem test_engine_registers_after_round_17 :
    engineTicks .encrypt ⟨0, 1, 2, 3⟩ 17 (engineLoad .encrypt #v[1, 2, 3, 4, 5, 6, 7, 8]) =
      ⟨0xD79A54F1, 0x67B01095, 0x81AF1549, 17⟩ := by decide +kernel

/-! ### Instructions: one step each, from the vectors of 95_test_vectors.md -/

/-- P1 row 2, S5: all sixteen bytes are loaded, in their order. -/
theorem test_setkey_loads :
    answer "SETKEY 000102030405060708090A0B0C0D0E0F" unkeyed = some (0x0, 0) ∧
    keyAfterLine "SETKEY 000102030405060708090A0B0C0D0E0F" unkeyed = some (true, keyA) := by
  decide +kernel

/-- T12 rows 1 to 3 and 21: the old key stays. -/
theorem test_setkey_wrong_length :
    answer "SETKEY 000102030405060708090A0B0C0D0E" (keyed keyA) = some (0x1, 0) ∧
    answer "SETKEY 000102030405060708090A0B0C0D0E0F10" (keyed keyA) = some (0x1, 0) ∧
    keyAfterLine "SETKEY -" (keyed keyA) = some (true, keyA) ∧
    keyAfterLine "SETKEY 000102030405060708090A0B0C0D0E" unkeyed = some (false, unkeyed.key) := by
  decide +kernel

/-- T1 (the outside anchor), T2, T9, and T10 (the key bytes 4 to 15). -/
theorem test_encEcb :
    answer "ENC.ECB 0000000000000000" (keyed keyZ) = some (0x0, 0x41EA3A0A94BAA940) ∧
    answer "ENC.ECB 0102030405060708" (keyed keyA) = some (0x0, 0xF9C61A4E31EB8BB6) ∧
    answer "ENC.ECB FFFFFFFFFFFFFFFF" (keyed keyF) = some (0x0, 0xADE816335A2EFD91) := by
  decide +kernel

/-- T12 rows 5, 12, 17 and 22. -/
theorem test_encEcb_validation :
    answer "ENC.ECB 01020304050607" (keyed keyA) = some (0x2, 0) ∧
    answer "ENC.ECB 0102030405060708, 0F1E2D" (keyed keyA) = some (0x0, 0xF9C61A4E31EB8BB6) ∧
    answer "ENC.ECB 0102030405060708" unkeyed = some (0x6, 0) ∧
    answer "ENC.ECB -" (keyed keyA) = some (0x2, 0) := by decide +kernel

/-- T7, and T12 row 24: the reserved bits set. -/
theorem test_encCbc :
    answer "ENC.CBC 0102030405060708, 0F1E2D3C4B5A6978" (keyed keyA) = some (0x0, 0x3421689EB434CEB4) ∧
    answerToCommand ⟨0x0808FF12, 0x0102030405060708 <<< 64, 0x0F1E2D3C4B5A6978⟩ (keyed keyA) =
      some (0x0, 0x3421689EB434CEB4) := by decide +kernel

/-- T12 rows 8 to 11. -/
theorem test_encCbc_needs_an_iv :
    answer "ENC.CBC 0102030405060708" (keyed keyA) = some (0x4, 0) ∧
    answer "ENC.CBC 0102030405060708, 0F1E2D3C4B5A69" (keyed keyA) = some (0x4, 0) ∧
    answer "ENC.CBC 0102030405060708, -" (keyed keyA) = some (0x4, 0) ∧
    answer "ENC.CBC 0102030405060708, 0F1E2D3C4B5A697887" (keyed keyA) = some (0x4, 0) := by
  decide +kernel

/-- T5, P3 row 5. -/
theorem test_encCfb :
    answer "ENC.CFB FFFFFFFFFFFFFFFF, 0000000000000000" (keyed keyA) = some (0x0, 0x04F1129AC76D4BDE) ∧
    answer "ENC.CFB 1122334455667788, CC508DAF2B3292F7" (keyed keyA) = some (0x0, 0x48174E4582E6D70C) := by
  decide +kernel

/-- T6, P3 row 3. -/
theorem test_encOfb :
    answer "ENC.OFB 0102030405060708, 0F1E2D3C4B5A6978" (keyed keyA) = some (0x0, 0xCC508DAF2B3292F7) ∧
    answer "ENC.OFB 1122334455667788, CD528EAB2E3495FF" (keyed keyA) = some (0x0, 0x269925C6E0C9BF48) := by
  decide +kernel

/-- T3 and T11 (the wrong key gives other bytes). -/
theorem test_decEcb :
    answer "DEC.ECB F9C61A4E31EB8BB6" (keyed keyA) = some (0x0, 0x0102030405060708) ∧
    answer "DEC.ECB 0000000000000000" (keyed keyA) = some (0x0, 0xCBE868A0B9FD4274) ∧
    answer "DEC.ECB F9C61A4E31EB8BB6" (keyed keyF) = some (0x0, 0xC1A8522343916398) := by decide +kernel

/-- T7, T8. -/
theorem test_decCbc :
    answer "DEC.CBC 3421689EB434CEB4, 0F1E2D3C4B5A6978" (keyed keyA) = some (0x0, 0x0102030405060708) ∧
    answer "DEC.CBC 10F5AC8D235293A5, 0000000000000000" (keyed keyA) = some (0x0, 0x99AABBCCDDEEFF00) := by
  decide +kernel

/-- T5, T6, T12 row 23. -/
theorem test_decCfb :
    answer "DEC.CFB 04F1129AC76D4BDE, 0000000000000000" (keyed keyA) = some (0x0, 0xFFFFFFFFFFFFFFFF) ∧
    answer "DEC.CFB 0102030405060708, 0F1E2D3C4B5A6978" (keyed keyA) = some (0x0, 0xCC508DAF2B3292F7) ∧
    answer "DEC.CFB 0102030405060708" (keyed keyA) = some (0x4, 0) := by decide +kernel

/-- T6. -/
theorem test_decOfb :
    answer "DEC.OFB CC508DAF2B3292F7, 0F1E2D3C4B5A6978" (keyed keyA) =
      some (0x0, 0x0102030405060708) := by decide +kernel

/-- T4. -/
theorem test_enciv :
    answer "ENCIV 0F1E2D3C4B5A6978" (keyed keyA) = some (0x0, 0xCD528EAB2E3495FF) ∧
    answer "ENCIV FFFFFFFFFFFFFFFF" (keyed keyA) = some (0x0, 0xC40858BBCDC6065A) := by decide +kernel

/-- T12 rows 13, 14 and 19. -/
theorem test_enciv_validation :
    answer "ENCIV 0F1E2D3C4B5A69" (keyed keyA) = some (0x4, 0) ∧
    answerToCommand ⟨0x00100004, 0, 0⟩ (keyed keyA) = some (0x4, 0) ∧
    answer "ENCIV 0F1E2D3C4B5A6978" unkeyed = some (0x6, 0) := by decide +kernel

/-- T12 rows 6, 7 and 18. -/
theorem test_encBadmode :
    answer "ENC.#9 01020304050607" (keyed keyA) = some (0x2, 0) ∧
    answer "ENC.#9 0102030405060708" (keyed keyA) = some (0x3, 0) ∧
    answer "ENC.#9 01020304050607" unkeyed = some (0x6, 0) := by decide +kernel

/-- 42_block_modes.md R121 for DEC, at both ends of the codes that are no variant. -/
theorem test_decBadmode :
    answer "DEC.#4 01020304050607" (keyed keyA) = some (0x2, 0) ∧
    answer "DEC.#15 0102030405060708" (keyed keyA) = some (0x3, 0) ∧
    answer "DEC.#4 0102030405060708" unkeyed = some (0x6, 0) := by decide +kernel

/-- T12 rows 15, 16 and 20. -/
theorem test_reserved_op :
    answerToCommand ⟨0x00080005, 0, 0⟩ (keyed keyA) = some (0x5, 0) ∧
    answerToCommand ⟨0x00080000, 0, 0⟩ (keyed keyA) = some (0x5, 0) ∧
    answerToCommand ⟨0xFFFF01FF, 0, 0⟩ unkeyed = some (0x5, 0) := by decide +kernel

/-- P4 row 8: reset takes the key and gives no response. -/
theorem test_reset_takes_the_key :
    (nextOf { keyed keyA with port := [.reset], inFlight := some ⟨0x00080002, 0, 0⟩ }).map
      (fun t => (t.keyValid, t.busy, t.responses)) = some (false, false, []) := by decide +kernel

/-! ### The assembler's lines -/

/-- T13 and T12: the words of lines. -/
theorem test_assembled_words :
    ((parseLine "ENC.CBC 0102030405060708, 0F1E2D3C4B5A6978").bind assemble).map (·.cmd) = some 0x08080112 ∧
    ((parseLine "ENC.#7 0102030405060708").bind assemble).map (·.cmd) = some 0x00080072 ∧
    ((parseLine "ENC.ECB 0102030405060708, 0F1E2D").bind assemble).map (·.cmd) = some 0x03080102 ∧
    ((parseLine "ENC.CBC 0102030405060708, -").bind assemble).map (·.cmd) = some 0x00080112 ∧
    ((parseLine "SETKEY -").bind assemble).map (·.cmd) = some 0x00000001 ∧
    ((parseLine "ENCIV 0F1E2D3C4B5A69").bind assemble).map (·.cmd) = some 0x00070004 := by decide +kernel

/-- T13, "Bus lanes". -/
theorem test_assembled_lanes :
    ((parseLine "ENC.ECB 0102030405060708").bind assemble).map (·.d.extractLsb 127 64) =
      some 0x0102030405060708 := by decide +kernel

theorem test_parse_refuses :
    parseLine "ENC.XYZ 0102030405060708" = none ∧ parseLine "ENC.#16 0102030405060708" = none ∧
    parseLine "ENC.ECB 010" = none ∧ parseLine "SETKEY" = none := by decide +kernel

/-- T2 as a line (R71). -/
theorem test_response_line :
    responseLine (.block #v[0xF9, 0xC6, 0x1A, 0x4E, 0x31, 0xEB, 0x8B, 0xB6]) = "-> OK F9C61A4E31EB8BB6" ∧
    responseLine (.error .noKey) = "-> NO_KEY" := by decide +kernel

/-! ### Witnesses: the hypotheses of each statement are met together, each clause at the edges of its range -/

/-- The operands of a command with the given lengths (T7's block and IV). -/
def operands (ivp : Bool) (dlen ivlen : BitVec 8) : Args :=
  ⟨ivp, 0, dlen, ivlen, 0x0102030405060708 <<< 64, 0x0F1E2D3C4B5A6978⟩

theorem witness_DecodeEncodeRoundTrip :
    (Instr.setkey 15 (operands false 16 0)).wf = true ∧ (Instr.encOfb (operands true 8 8)).wf = true ∧
    (Instr.encBadmode 4 (operands false 8 0)).wf = true ∧
    (Instr.decBadmode 15 (operands false 8 0)).wf = true := by decide

theorem witness_DecodedCommandsReencode :
    decode ⟨0x08080112, 0, 0⟩ = .ok (.encCbc ⟨true, 0, 8, 8, 0, 0⟩) ∧
    decode ⟨0x000800F3, 0, 0⟩ = .ok (.decBadmode 15 ⟨false, 0, 8, 0, 0, 0⟩) := ⟨rfl, rfl⟩

theorem witness_DecodeFollowsTheCommandTable :
    opField 0x00100001 = 0x1 ∧
    (opField 0x00080002 = 0x2 ∧ modeField 0x00080002 = 0x0) ∧
    (opField 0x00080032 = 0x2 ∧ modeField 0x00080032 = 0x3) ∧
    (opField 0x00080042 = 0x2 ∧ modeField 0x00080042 = 0x4) ∧
    (opField 0x000800F3 = 0x3 ∧ modeField 0x000800F3 = 0xF) ∧
    opField 0x00080004 = 0x4 ∧
    (opField 0x00080000 = 0x0 ∧ 0x5 ≤ opField 0x00080005 ∧ 0x5 ≤ opField 0x0008000F) ∧
    (commandTable.find? fun r => r.fits 0x00080032) = some ⟨"ENC.OFB", 0x00000032, 0x000000FF⟩ ∧
    (commandTable.find? fun r => r.fits 0x00080042) = some ⟨"ENC.BADMODE", 0x00000002, 0x0000000F⟩ ∧
    (commandTable.find? fun r => r.fits 0x00080005) = none := by decide +kernel

theorem witness_ModeTaxonomy : 4 ≤ (0x4 : BitVec 4).toNat ∧ 4 ≤ (0xF : BitVec 4).toNat := by decide

/-- Lengths at the ends of what a length field declares, and the command of a line with a block alone (T3), which
carries the line's operands. -/
theorem witness_AssembledLinesCarryTheirOperands :
    (([] : List Byte).length < 256 ∧ (List.replicate 255 (0 : Byte)).length < 256) ∧
    (((none : Option (List Byte)).getD []).length < 256 ∧ (some [(0 : Byte)]).getD [] ≠ []) ∧
    Carries ⟨0x08080113, 0x3421689EB434CEB4 <<< 64, 0x0F1E2D3C4B5A6978⟩ 0x3 0x1
      (#v[0x34, 0x21, 0x68, 0x9E, 0xB4, 0x34, 0xCE, 0xB4] : Block).toList
      (some (#v[0x0F, 0x1E, 0x2D, 0x3C, 0x4B, 0x5A, 0x69, 0x78] : Block).toList) ∧
    Carries ⟨0x00080003, 0xF9C61A4E31EB8BB6 <<< 64, 0⟩ 0x3 0x0
      (#v[0xF9, 0xC6, 0x1A, 0x4E, 0x31, 0xEB, 0x8B, 0xB6] : Block).toList none ∧
    Carries ⟨0x00100001, 0x000102030405060708090A0B0C0D0E0F, 0⟩ 0x1 0x0 keyA.toList none :=
  ⟨by decide +kernel, by decide,
    ⟨by decide, by decide, by decide, by decide, by decide, by decide, by decide +kernel, by decide +kernel⟩,
    ⟨by decide, by decide, by decide, by decide, by decide, by decide, by decide +kernel, by decide +kernel⟩,
    ⟨by decide, by decide, by decide, by decide, by decide, by decide, by decide +kernel, by decide +kernel⟩⟩

theorem witness_StepRunsTheDecodedCommand :
    Idle (presented ⟨0x00080002, 0, 0⟩ (keyed keyA)) ∧
    (presented ⟨0x00080002, 0, 0⟩ (keyed keyA)).port = .command ⟨0x00080002, 0, 0⟩ :: [] ∧
    decode ⟨0x00080002, 0, 0⟩ = .ok (.encEcb ⟨false, 0, 8, 0, 0, 0⟩) := ⟨rfl, rfl, rfl⟩

theorem witness_PlacedWordRunsNext :
    decodeTableWord 32 0x00080004 = some (.enciv 0 ⟨false, 0, 8, 0, 0, 0⟩) := by decide

/-- Busy with nothing at the port, and with the next command waiting there. -/
theorem witness_BusyCoreAcceptsNothing :
    ({ keyed keyA with inFlight := some ⟨0x00080002, 0, 0⟩ } : State).port.head? ≠ some .reset ∧
    ({ keyed keyA with inFlight := some ⟨0x00080002, 0, 0⟩, port := [.command ⟨0x00080005, 0, 0⟩] } :
      State).port.head? ≠ some .reset := by decide

theorem witness_NothingInNothingHappens : Idle (keyed keyA) ∧ (keyed keyA).port = [] := ⟨rfl, rfl⟩

/-- Reset of a core between commands, and of one with a command in flight. -/
theorem witness_ResetTakesTheKeyWithoutAResponse :
    ({ keyed keyA with port := [.reset] } : State).port = .reset :: [] ∧
    ({ keyed keyA with port := [.reset, .reset], inFlight := some ⟨0x00080002, 0, 0⟩ } : State).port =
      .reset :: [.reset] := ⟨rfl, rfl⟩

theorem witness_StepsLeaveTheCoreIdle :
    ∃ t, Idle (presented ⟨0x00080002, 0, 0⟩ (keyed keyA)) ∧
      step (presented ⟨0x00080002, 0, 0⟩ (keyed keyA)) = .next t := ⟨_, rfl, rfl⟩

theorem witness_OneResponsePerCommand :
    Idle (presented ⟨0x00100001, 0, 0⟩ unkeyed) ∧
    (presented ⟨0x00100001, 0, 0⟩ unkeyed).port = .command ⟨0x00100001, 0, 0⟩ :: [] := ⟨rfl, rfl⟩

/-- Both clauses, the first at OP 0, 5 and 15. -/
theorem witness_ReservedOpAnswersIllegal :
    Idle (presented ⟨0x00000005, 0, 0⟩ unkeyed) ∧
    (opField 0x00000000 = 0x0 ∧ 0x5 ≤ opField 0x00000005 ∧ 0x5 ≤ opField 0x0000000F) ∧
    ∃ t, step (presented ⟨0x00000005, 0, 0⟩ unkeyed) = .next t ∧
      t.responses = (presented ⟨0x00000005, 0, 0⟩ unkeyed).responses ++ [.error .illegalCmd] :=
  ⟨rfl, by decide, _, rfl, rfl⟩

/-- Both clauses, the first at OP 2, 3 and 4. -/
theorem witness_NoKeyUntilSetkey :
    Idle (presented ⟨0x00000072, 0, 0⟩ unkeyed) ∧ unkeyed.keyValid = false ∧
    (opField 0x00000072 = 0x2 ∧ opField 0x00000003 = 0x3 ∧ opField 0x00000004 = 0x4) ∧
    ∃ t, step (presented ⟨0x00000072, 0, 0⟩ unkeyed) = .next t ∧
      t.responses = (presented ⟨0x00000072, 0, 0⟩ unkeyed).responses ++ [.error .noKey] :=
  ⟨rfl, rfl, by decide, _, rfl, rfl⟩

/-- An error of every kind. -/
theorem witness_ErrorsLeaveNoTrace :
    ∀ p ∈ [(0x000F0001, ErrorKind.invalidKey, keyed keyA), (0x00070002, .invalidBlock, keyed keyA),
        (0x00080092, .invalidMode, keyed keyA), (0x00080012, .invalidIv, keyed keyA),
        (0x00000000, .illegalCmd, keyed keyA), (0x00080002, .noKey, unkeyed)],
      ∃ t, Idle (presented ⟨p.1, 0, 0⟩ p.2.2) ∧ step (presented ⟨p.1, 0, 0⟩ p.2.2) = .next t ∧
        t.responses = (presented ⟨p.1, 0, 0⟩ p.2.2).responses ++ [.error p.2.1] := by
  simp only [List.forall_mem_cons]
  exact ⟨⟨_, rfl, rfl, rfl⟩, ⟨_, rfl, rfl, rfl⟩, ⟨_, rfl, rfl, rfl⟩, ⟨_, rfl, rfl, rfl⟩,
    ⟨_, rfl, rfl, rfl⟩, ⟨_, rfl, rfl, rfl⟩, by simp⟩

theorem witness_ReservedBitsChangeNothing :
    Idle (keyed keyA) ∧ (0x0808FF12 &&& 0xFFFF01FF : BitVec 32) = 0x08080112 &&& 0xFFFF01FF ∧
    (0x0808FF12 : BitVec 32) ≠ 0x08080112 := by
  exact ⟨rfl, by decide, by decide⟩

theorem witness_UnreadFieldsAreIgnored :
    (operands false 8 255).ivp = false ∧ 4 ≤ (0x4 : BitVec 4).toNat ∧ 4 ≤ (0xF : BitVec 4).toNat := by decide

theorem witness_SumSchedule : (0 ≤ 32 ∧ 32 ≤ 32) ∧ (1 ≤ 1 ∧ 1 ≤ 32) ∧ (1 ≤ 32 ∧ 32 ≤ 32) := by decide

theorem witness_SequencerComputesTheTransform : 32 ≤ 32 ∧ 32 ≤ 33 := by decide

/-- The right length, and lengths beside it and at the ends. -/
theorem witness_SetkeyLoadsTheKey :
    (operands false 16 0).dlen.toNat = 16 ∧
    ((operands false 15 0).dlen.toNat ≠ 16 ∧ (operands false 17 0).dlen.toNat ≠ 16 ∧
      (operands false 0 0).dlen.toNat ≠ 16 ∧ (operands false 255 0).dlen.toNat ≠ 16) ∧
    opField 0x00100001 = 0x1 := by decide

theorem witness_EncivAnswersTheRawTransform :
    ((keyed keyA).keyValid = true ∧ (operands false 8 0).dlen.toNat = 8) ∧ unkeyed.keyValid = false ∧
    ((operands false 7 0).dlen.toNat ≠ 8 ∧ (operands false 9 0).dlen.toNat ≠ 8 ∧
      (operands false 0 0).dlen.toNat ≠ 8 ∧ (operands false 255 0).dlen.toNat ≠ 8) ∧
    opField 0x00080004 = 0x4 := by decide

/-- Operands every mode accepts. -/
theorem operands_valid (m : CipherMode) (d : BitVec 128) (iv : BitVec 64) :
    OperandsValid m ⟨true, 0, 8, 8, d, iv⟩ := ⟨rfl, fun _ => ⟨rfl, rfl⟩⟩

/-- With no IV in mode ECB, with one of eight bytes in every mode. -/
theorem witness_BlockCommandsFollowTheControlTable :
    (keyed keyA).keyValid = true ∧ OperandsValid .ecb (operands false 8 0) ∧
    ∀ m, OperandsValid m (operands true 8 8) :=
  ⟨rfl, ⟨rfl, fun h => absurd rfl h⟩, fun m => operands_valid m _ _⟩

/-- Every clause, for a command of every mode in both directions. -/
theorem witness_ValidationOrder :
    (∀ (m : CipherMode) (a : Args), blockModeOf (encIn m a) = some m ∧ (encIn m a).args = a ∧
      blockModeOf (decIn m a) = some m ∧ (decIn m a).args = a) ∧
    unkeyed.keyValid = false ∧ (keyed keyA).keyValid = true ∧
    ((operands true 7 8).dlen.toNat ≠ 8 ∧ (operands true 9 8).dlen.toNat ≠ 8) ∧
    CipherMode.cbc ≠ .ecb ∧ (operands true 8 8).dlen.toNat = 8 ∧
    ((operands false 8 8).ivp = false ∧ (operands true 8 7).ivlen.toNat ≠ 8 ∧
      (operands true 8 9).ivlen.toNat ≠ 8 ∧ (operands true 8 0).ivlen.toNat ≠ 8) ∧
    ((operands true 8 8).ivp = true ∧ (operands true 8 8).ivlen.toNat = 8) ∧
    (4 ≤ (0x4 : BitVec 4).toNat ∧ 4 ≤ (0xF : BitVec 4).toNat) := by
  refine ⟨fun m a => ?_, by decide⟩
  cases m <;> exact ⟨rfl, rfl, rfl, rfl⟩

theorem witness_BadModeAnswers :
    Instr.encBadmode 4 (operands false 8 0) ∈
      [Instr.encBadmode 4 (operands false 8 0), Instr.decBadmode 4 (operands false 8 0)] ∧
    (4 ≤ (0x4 : BitVec 4).toNat ∧ 4 ≤ (0xF : BitVec 4).toNat) ∧
    unkeyed.keyValid = false ∧ (keyed keyA).keyValid = true ∧
    ((operands false 7 0).dlen.toNat ≠ 8 ∧ (operands false 9 0).dlen.toNat ≠ 8 ∧
      (operands false 8 0).dlen.toNat = 8) ∧
    (4 ≤ (modeField 0x00080042).toNat ∧ opField 0x00080042 = 0x2) ∧
    (4 ≤ (modeField 0x000800F3).toNat ∧ opField 0x000800F3 = 0x3) := by decide

/-- The clause on one instruction, and the one on a run that has a command in flight and two at the port. -/
theorem witness_OnlySetkeyWritesTheKey :
    (isSuccessfulSetkey (.setkey 0 (operands false 15 0)) = false ∧
      ∃ t, exec (.setkey 0 (operands false 15 0)) (keyed keyA) = .next t) ∧
    ∃ s t : State, (∀ c, s.inFlight = some c → loadsKey c = false) ∧
      (∀ x ∈ s.port, ∃ c, x = .command c ∧ loadsKey c = false) ∧ s.inFlight ≠ none ∧ s.port.length = 2 ∧
      Host.Core.run Sys2Proof.core 3 s = .next t := by
  refine ⟨⟨rfl, _, rfl⟩, { keyed keyA with
    inFlight := some ⟨0x00080005, 0, 0⟩
    port := [.command ⟨0x000F0001, 0, 0⟩, .command ⟨0x00070002, 0, 0⟩] }, _, ?_, ?_, ?_, rfl, rfl⟩
  · rintro c ⟨rfl⟩; rfl
  · simp only [List.forall_mem_cons]
    exact ⟨⟨_, rfl, rfl⟩, ⟨_, rfl, rfl⟩, by simp⟩
  · decide

/-- T2 and T3 (ECB), T7 (CBC) and T6 (CFB, OFB): the premises of both directions with the spec's bytes. -/
def roundTripCipher : CipherMode → BitVec 128
  | .ecb => 0xF9C61A4E31EB8BB6 <<< 64
  | .cbc => 0x3421689EB434CEB4 <<< 64
  | .cfb => 0xCC508DAF2B3292F7 <<< 64
  | .ofb => 0xCC508DAF2B3292F7 <<< 64

/-- The plain block and its cipher block as operands. -/
def roundTripOperands (m : CipherMode) : Args × Args :=
  (operands true 8 8, { operands true 8 8 with d := roundTripCipher m })

theorem answers_transform {r : Response} {dir : Direction} {b : Block} {post : Block → Block} {s : State}
    (h : r = .block (post (engineOutput (engineRun dir (subkeys s.key) b)))) :
    Answers r s (transformAndAnswer dir b post s) := by
  subst h
  exact ⟨rfl, rfl, rfl, rfl, rfl⟩

theorem witness_RoundTripInEveryMode (m : CipherMode) :
    (keyed keyA).keyValid = true ∧ OperandsValid m (roundTripOperands m).1 ∧
    OperandsValid m (roundTripOperands m).2 ∧
    (m ≠ .ecb → ivOperand (roundTripOperands m).2 = ivOperand (roundTripOperands m).1) ∧
    AnswersBlock (encIn m (roundTripOperands m).1) (keyed keyA) (blockOperand (roundTripOperands m).2) ∧
    AnswersBlock (decIn m (roundTripOperands m).2) (keyed keyA) (blockOperand (roundTripOperands m).1) := by
  cases m <;>
    exact ⟨rfl, operands_valid _ _ _, operands_valid _ _ _, fun _ => rfl,
      ⟨_, rfl, answers_transform (by decide +kernel)⟩, ⟨_, rfl, answers_transform (by decide +kernel)⟩⟩

theorem witness_CfbAndOfbCoincide :
    (keyed keyA).keyValid = true ∧ OperandsValid .cfb (operands true 8 8) := ⟨rfl, operands_valid _ _ _⟩

/-- (a) a zero IV; (b) a zero block and an IV (T4) that is the other command's block; (c) two blocks under one IV;
(d) two pairs with one XOR. -/
theorem witness_ModeIdentities :
    (keyed keyA).keyValid = true ∧
    (OperandsValid .cbc ⟨true, 0, 8, 8, 0x0102030405060708 <<< 64, 0⟩ ∧
      ivOperand ⟨true, 0, 8, 8, 0x0102030405060708 <<< 64, 0⟩ = zeroBlock) ∧
    (OperandsValid .cfb ⟨true, 0, 8, 8, 0, 0x0F1E2D3C4B5A6978⟩ ∧
      blockOperand ⟨true, 0, 8, 8, 0, 0x0F1E2D3C4B5A6978⟩ = zeroBlock ∧
      blockOperand ⟨false, 0, 8, 0, 0x0F1E2D3C4B5A6978 <<< 64, 0⟩ =
        ivOperand ⟨true, 0, 8, 8, 0, 0x0F1E2D3C4B5A6978⟩) ∧
    (OperandsValid .cfb (operands true 8 8) ∧
      ivOperand (operands true 8 8) = ivOperand ⟨true, 0, 8, 8, 0x1122334455667788 <<< 64, 0x0F1E2D3C4B5A6978⟩) ∧
    (OperandsValid .cbc ⟨true, 0, 8, 8, 0x0E1C2E384E5C6E70 <<< 64, 0⟩ ∧
      xorBlock (blockOperand (operands true 8 8)) (ivOperand (operands true 8 8)) =
        xorBlock (blockOperand ⟨true, 0, 8, 8, 0x0E1C2E384E5C6E70 <<< 64, 0⟩)
          (ivOperand ⟨true, 0, 8, 8, 0x0E1C2E384E5C6E70 <<< 64, 0⟩)) :=
  ⟨rfl, ⟨operands_valid _ _ _, by decide +kernel⟩,
    ⟨operands_valid _ _ _, by decide +kernel, by decide +kernel⟩,
    ⟨operands_valid _ _ _, by decide +kernel⟩, ⟨operands_valid _ _ _, by decide +kernel⟩⟩

theorem witness_OrderOfOtherCommandsDoesNotMatter :
    isSuccessfulSetkey (.encEcb (operands false 8 0)) = false ∧
    isSuccessfulSetkey (.setkey 0 (operands false 15 0)) = false := by decide

/-- A loaded key with other bytes 4 to 15 and other engine registers, and an unloaded other key. -/
theorem witness_UnreadStateIsNeverObserved :
    (Indistinguishable (presented ⟨0x00080002, 0, 0⟩ (keyed keyA))
      (presented ⟨0x00080002, 0, 0⟩
        { keyed (Vector.ofFn fun i : Fin 16 => if i.val < 4 then keyA[i] else 0xAA) with
          round := ⟨1, 2, 3, 32⟩, freeCount := 7 }) ∧
      ∃ s', step (presented ⟨0x00080002, 0, 0⟩ (keyed keyA)) = .next s') ∧
    Indistinguishable unkeyed { unkeyed with key := keyF } :=
  ⟨⟨⟨rfl, rfl, rfl, rfl, fun _ => by decide +kernel⟩, _, rfl⟩,
    ⟨rfl, rfl, rfl, rfl, fun h => nomatch h⟩⟩

/-- T10: the key bytes 4 to 15 are 0xAA. -/
theorem witness_KeysAgreeingInFourBytesActAlike :
    isSuccessfulSetkey (.encEcb (operands false 8 0)) = false ∧
    (∀ n : Fin 4, (#v[0, 1, 2, 3, 0xAA, 0xAA, 0xAA, 0xAA, 0xAA, 0xAA, 0xAA, 0xAA, 0xAA, 0xAA, 0xAA, 0xAA] :
      Key)[n] = (keyed keyA).key[n]) := by decide +kernel

theorem witness_CommandIsAnsweredByKeyAndCommandAlone :
    Idle (presented ⟨0x08080112, 0, 0⟩ (keyed keyA)) ∧
    (presented ⟨0x08080112, 0, 0⟩ (keyed keyA)).port = .command ⟨0x08080112, 0, 0⟩ :: [] := ⟨rfl, rfl⟩

/-- P4's beginning and end: an error, a reset, and a command without a key. -/
theorem witness_RunGivesTheHostsView :
    Idle { keyed keyA with port := [.command ⟨0x00080012, 0, 0⟩, .reset, .command ⟨0x00080003, 0, 0⟩] } := rfl

theorem witness_StepKeepsTheHostsView :
    ∃ t, Idle (presented ⟨0x00100001, 0, 0⟩ unkeyed) ∧
      step (presented ⟨0x00100001, 0, 0⟩ unkeyed) = .next t := ⟨_, rfl, rfl⟩

end Sys2Proof.Tests
end

section
/-! PROOFS. The state between two steps (10_state.md): a command runs to one response that depends on the loaded key
and the command alone, and the core is idle again. -/

namespace Sys2Proof.Proofs

open Sys2Proof Sys2Proof.Machine Sys2Proof.Laws

/-! ### The engine's output as a function on values -/

theorem xorBlock_comm (a b : Block) : xorBlock a b = xorBlock b a := by
  ext i hi
  simp [xorBlock, BitVec.xor_comm]

/-- The sequencer run forward computes TEA_E (41_core_transform.md R93, R99). -/
@[simp] theorem engineOutput_engineRun_encrypt (k : Subkeys) (b : Block) :
    engineOutput (engineRun .encrypt k b) = teaE k b := by
  obtain ⟨h, -⟩ := engineRun_spec .encrypt k b
  simp only [roundOf, startSum] at h
  simp only [teaE, rounds, ← h, engineOutput]

/-- The sequencer run backward computes TEA_D (41_core_transform.md R95, R99). -/
@[simp] theorem engineOutput_engineRun_decrypt (k : Subkeys) (b : Block) :
    engineOutput (engineRun .decrypt k b) = teaD k b := by
  obtain ⟨h, -⟩ := engineRun_spec .decrypt k b
  simp only [roundOf, startSum] at h
  simp only [teaD, rounds, ← h, engineOutput]

/-! ### Decoding by the operation and mode fields -/

/-- OP selects the group of instructions (30_encoding.md R68). -/
theorem decode_cases (c : Command) :
    (opField c.cmd = 0x1 ∧ decode c = .ok (.setkey (modeField c.cmd) (argsOf c))) ∨
    (opField c.cmd = 0x2 ∧ decode c = .ok (decodeEnc (modeField c.cmd) (argsOf c))) ∨
    (opField c.cmd = 0x3 ∧ decode c = .ok (decodeDec (modeField c.cmd) (argsOf c))) ∨
    (opField c.cmd = 0x4 ∧ decode c = .ok (.enciv (modeField c.cmd) (argsOf c))) ∨
    ((opField c.cmd = 0x0 ∨ 0x5 ≤ opField c.cmd) ∧
      decode c = .error (.reservedOp (opField c.cmd))) := by
  unfold decode
  split
  · next h => exact .inl ⟨h, rfl⟩
  · next h => exact .inr (.inl ⟨h, rfl⟩)
  · next h => exact .inr (.inr (.inl ⟨h, rfl⟩))
  · next h => exact .inr (.inr (.inr (.inl ⟨h, rfl⟩)))
  · next op h1 h2 h3 h4 =>
    refine .inr (.inr (.inr (.inr ⟨?_, rfl⟩)))
    simp only [imp_false] at h1 h2 h3 h4
    bv_omega

/-- MODE selects the variant (30_encoding.md R62). -/
theorem modeOfCode_cases (code : BitVec 4) :
    (code = 0x0 ∧ modeOfCode code = some .ecb) ∨ (code = 0x1 ∧ modeOfCode code = some .cbc) ∨
    (code = 0x2 ∧ modeOfCode code = some .cfb) ∨ (code = 0x3 ∧ modeOfCode code = some .ofb) ∨
    (4 ≤ code.toNat ∧ modeOfCode code = none) := by
  decide +revert

/-! ### What each operation answers -/

theorem loadedKey_of_valid {s : State} (h : s.keyValid = true) : loadedKey s = some s.key := by
  simp [loadedKey, h]

theorem loadedKey_of_not_valid {s : State} (h : s.keyValid = false) : loadedKey s = none := by
  simp [loadedKey, h]

@[simp] theorem loadedKey_raiseError (e : ErrorKind) (s : State) :
    loadedKey (raiseError e s) = loadedKey s := rfl

theorem raiseError_answers (e : ErrorKind) (s : State) : Answers (.error e) s (raiseError e s) :=
  ⟨rfl, rfl, rfl, rfl, rfl⟩

theorem transformAndAnswer_answers (dir : Direction) (b : Block) (post : Block → Block) (s : State) :
    Answers (.block (post (engineOutput (engineRun dir (subkeys s.key) b)))) s
      (transformAndAnswer dir b post s) :=
  ⟨rfl, rfl, rfl, rfl, rfl⟩

/-- The answer of `answerTo` to a block command: NO_KEY without a key, else `blockAnswer` under the subkeys. -/
def blockReply (enc : Bool) (key : Option Key) (c : Command) : Response :=
  key.elim (.error .noKey) fun k => blockAnswer (subkeys k) enc c

theorem answerTo_enc {c : Command} (h : opField c.cmd = 0x2) (key : Option Key) :
    answerTo key c = blockReply true key c := by
  simp [answerTo, blockReply, h]

theorem answerTo_dec {c : Command} (h : opField c.cmd = 0x3) (key : Option Key) :
    answerTo key c = blockReply false key c := by
  simp [answerTo, blockReply, h]

theorem answerTo_reserved {c : Command} (h : opField c.cmd = 0x0 ∨ 0x5 ≤ opField c.cmd)
    (key : Option Key) : answerTo key c = .error .illegalCmd := by
  unfold answerTo
  split
  case h_5 => rfl
  all_goals bv_omega

/-! ### Block commands -/

/-- VALIDATE passes exactly under a loaded key and valid operands. -/
theorem validate_eq_none_iff_operandsValid (m : CipherMode) (a : Args) (s : State) :
    validate (some m) a s = none ↔ s.keyValid = true ∧ OperandsValid m a := by
  rw [validate_eq_none_iff]
  exact and_congr_right fun _ => ⟨fun ⟨hd, hiv⟩ => ⟨hd, hiv⟩, fun ⟨hd, hiv⟩ => ⟨hd, hiv⟩⟩

theorem validate_of_not_valid {s : State} (h : s.keyValid = false) (mode : Option CipherMode) (a : Args) :
    validate mode a s = some .noKey := by
  simp [validate, h]

/-- Under a loaded key, `blockAnswer` reports the error VALIDATE finds: both check the length, the mode code and the
IV, in this order (42_block_modes.md R110). -/
theorem blockAnswer_of_validate_some {s : State} {c : Command} {e : ErrorKind} (hk : s.keyValid = true)
    (h : validate (modeOfCode (modeField c.cmd)) (argsOf c) s = some e) (k : Subkeys) (enc : Bool) :
    blockAnswer k enc c = .error e := by
  by_cases hd : (argsOf c).dlen.toNat = 8
  · rcases modeOfCode_cases (modeField c.cmd) with
      ⟨hc, hm⟩ | ⟨hc, hm⟩ | ⟨hc, hm⟩ | ⟨hc, hm⟩ | ⟨hc, hm⟩ <;>
      simp_all [validate, blockAnswer, declaredLength, requiresIv, ivSupplied]
  · simp_all [validate, blockAnswer, declaredLength]

theorem blockAnswer_ecb {c : Command} (hc : modeField c.cmd = 0x0) (hv : OperandsValid .ecb (argsOf c))
    (k : Subkeys) (enc : Bool) :
    blockAnswer k enc c =
      .block (if enc then teaE k (blockOperand (argsOf c)) else teaD k (blockOperand (argsOf c))) := by
  simp [blockAnswer, hc, hv.block]

theorem blockAnswer_cbc {c : Command} (hc : modeField c.cmd = 0x1) (hv : OperandsValid .cbc (argsOf c))
    (k : Subkeys) (enc : Bool) :
    blockAnswer k enc c =
      .block (if enc then teaE k (xorBlock (blockOperand (argsOf c)) (ivOperand (argsOf c)))
        else xorBlock (teaD k (blockOperand (argsOf c))) (ivOperand (argsOf c))) := by
  simp [blockAnswer, hc, hv.block, hv.iv]

/-- CFB and OFB answer alike in both directions (42_block_modes.md R123). -/
theorem blockAnswer_feedback {c : Command} {m : CipherMode} (hc : modeField c.cmd = 0x2 ∨ modeField c.cmd = 0x3)
    (hm : m ≠ .ecb) (hv : OperandsValid m (argsOf c)) (k : Subkeys) (enc : Bool) :
    blockAnswer k enc c =
      .block (xorBlock (teaE k (ivOperand (argsOf c))) (blockOperand (argsOf c))) := by
  rw [xorBlock_comm]
  rcases hc with hc | hc <;> simp [blockAnswer, hc, hv.block, hv.iv hm]

theorem blockReply_some (enc : Bool) (key : Key) (c : Command) :
    blockReply enc (some key) c = blockAnswer (subkeys key) enc c := rfl

/-- `blockReply` reports the error VALIDATE finds. -/
theorem blockReply_of_validate_some {s : State} {c : Command} {e : ErrorKind}
    (h : validate (modeOfCode (modeField c.cmd)) (argsOf c) s = some e) (enc : Bool) :
    blockReply enc (loadedKey s) c = .error e := by
  cases hk : s.keyValid with
  | false =>
    cases (validate_of_not_valid hk _ _).symm.trans h
    rw [loadedKey_of_not_valid hk]
    rfl
  | true => rw [loadedKey_of_valid hk, blockReply_some, blockAnswer_of_validate_some hk h]

/-- A block command in a mode variant answers `blockReply`, when its row of the control table computes
`blockAnswer` on valid operands. -/
theorem blockCommand_answers {c : Command} {m : CipherMode} {pre : EngineInput} {dir : Direction}
    {post : ResultSelect} {enc : Bool} (s : State) (hm : modeOfCode (modeField c.cmd) = some m)
    (hrow : OperandsValid m (argsOf c) → ∀ k, blockAnswer k enc c =
      .block (postProcess post (blockOperand (argsOf c)) (ivOperand (argsOf c))
        (engineOutput (engineRun dir k (preProcess pre (blockOperand (argsOf c)) (ivOperand (argsOf c))))))) :
    Answers (blockReply enc (loadedKey s) c) s (blockCommand m pre dir post (argsOf c) s) := by
  rcases blockCommand_cases m pre dir post (argsOf c) s with ⟨e, he, h⟩ | ⟨hn, h⟩
  · rw [h, blockReply_of_validate_some (by rwa [hm])]
    exact raiseError_answers e s
  · obtain ⟨hk, hv⟩ := (validate_eq_none_iff_operandsValid m (argsOf c) s).mp hn
    rw [h, loadedKey_of_valid hk, blockReply_some, hrow hv]
    exact transformAndAnswer_answers _ _ _ s

/-- A block command whose mode code is no variant answers `blockReply` (42_block_modes.md R121). -/
theorem badModeCommand_answers {c : Command} (s : State) (hm : modeOfCode (modeField c.cmd) = none) (enc : Bool) :
    Answers (blockReply enc (loadedKey s) c) s (badModeCommand (argsOf c) s) := by
  obtain ⟨e, he, h⟩ := badModeCommand_eq (argsOf c) s
  rw [h, blockReply_of_validate_some (by rwa [hm])]
  exact raiseError_answers e s

/-- The feedback rows of the control table, the same for both directions (42_block_modes.md R123). -/
theorem feedbackCommand_answers {c : Command} {m : CipherMode} (s : State)
    (hc : modeField c.cmd = 0x2 ∨ modeField c.cmd = 0x3) (hm : modeOfCode (modeField c.cmd) = some m)
    (hne : m ≠ .ecb) (enc : Bool) :
    Answers (blockReply enc (loadedKey s) c) s
      (blockCommand m .iv .encrypt .engineXorBlock (argsOf c) s) :=
  blockCommand_answers s hm fun hv k => by
    rw [blockAnswer_feedback hc hne hv, preProcess, engineOutput_engineRun_encrypt, postProcess]

/-- ENC in every mode answers what `answerTo` says. -/
theorem exec_decodeEnc_answers {c : Command} (hop : opField c.cmd = 0x2) (s : State) :
    ∃ t, exec (decodeEnc (modeField c.cmd) (argsOf c)) s = .next t ∧
      Answers (answerTo (loadedKey s) c) s t := by
  rw [answerTo_enc hop]
  rcases modeOfCode_cases (modeField c.cmd) with
    ⟨hc, hm⟩ | ⟨hc, hm⟩ | ⟨hc, hm⟩ | ⟨hc, hm⟩ | ⟨-, hm⟩ <;> rw [decodeEnc, hm]
  · exact ⟨_, rfl, blockCommand_answers s hm fun hv k => by
      rw [blockAnswer_ecb hc hv, preProcess, engineOutput_engineRun_encrypt]; rfl⟩
  · exact ⟨_, rfl, blockCommand_answers s hm fun hv k => by
      rw [blockAnswer_cbc hc hv, preProcess, engineOutput_engineRun_encrypt]; rfl⟩
  · exact ⟨_, rfl, feedbackCommand_answers s (.inl hc) hm (by decide) _⟩
  · exact ⟨_, rfl, feedbackCommand_answers s (.inr hc) hm (by decide) _⟩
  · exact ⟨_, rfl, badModeCommand_answers s hm true⟩

/-- DEC in every mode answers what `answerTo` says. -/
theorem exec_decodeDec_answers {c : Command} (hop : opField c.cmd = 0x3) (s : State) :
    ∃ t, exec (decodeDec (modeField c.cmd) (argsOf c)) s = .next t ∧
      Answers (answerTo (loadedKey s) c) s t := by
  rw [answerTo_dec hop]
  rcases modeOfCode_cases (modeField c.cmd) with
    ⟨hc, hm⟩ | ⟨hc, hm⟩ | ⟨hc, hm⟩ | ⟨hc, hm⟩ | ⟨-, hm⟩ <;> rw [decodeDec, hm]
  · exact ⟨_, rfl, blockCommand_answers s hm fun hv k => by
      rw [blockAnswer_ecb hc hv, preProcess, engineOutput_engineRun_decrypt]; rfl⟩
  · exact ⟨_, rfl, blockCommand_answers s hm fun hv k => by
      rw [blockAnswer_cbc hc hv, preProcess, engineOutput_engineRun_decrypt]; rfl⟩
  · exact ⟨_, rfl, feedbackCommand_answers s (.inl hc) hm (by decide) _⟩
  · exact ⟨_, rfl, feedbackCommand_answers s (.inr hc) hm (by decide) _⟩
  · exact ⟨_, rfl, badModeCommand_answers s hm false⟩

/-! ### The other commands -/

theorem execEnciv_of_not_valid {s : State} (hk : s.keyValid = false) (a : Args) :
    execEnciv a s = .next (raiseError .noKey s) := by
  simp [execEnciv, hk]

theorem execEnciv_of_length_ne {s : State} {a : Args} (hk : s.keyValid = true) (hd : a.dlen.toNat ≠ 8) :
    execEnciv a s = .next (raiseError .invalidIv s) := by
  simp [execEnciv, hk, declaredLength, hd]

theorem execEnciv_of_length {s : State} {a : Args} (hk : s.keyValid = true) (hd : a.dlen.toNat = 8) :
    execEnciv a s = .next (transformAndAnswer .encrypt (blockOperand a) (fun out => out) s) := by
  simp [execEnciv, hk, declaredLength, hd]

theorem execSetkey_of_length {a : Args} (hd : a.dlen.toNat = 16) (s : State) :
    execSetkey a s = .next (respond .keyLoaded (loadKey (keyOperand a) s)) := by
  simp [execSetkey, declaredLength, hd]

theorem execSetkey_of_length_ne {a : Args} (hd : a.dlen.toNat ≠ 16) (s : State) :
    execSetkey a s = .next (raiseError .invalidKey s) := by
  simp [execSetkey, declaredLength, hd]

/-- ENCIV answers what `answerTo` says (41_core_transform.md R98). -/
theorem execEnciv_answers {c : Command} (hop : opField c.cmd = 0x4) (s : State) :
    ∃ t, execEnciv (argsOf c) s = .next t ∧ Answers (answerTo (loadedKey s) c) s t := by
  cases hk : s.keyValid with
  | false =>
    have hr : answerTo (loadedKey s) c = .error .noKey := by
      simp [answerTo, hop, loadedKey_of_not_valid hk]
    exact ⟨_, execEnciv_of_not_valid hk _, hr ▸ raiseError_answers _ s⟩
  | true =>
    by_cases hd : (argsOf c).dlen.toNat = 8
    · have hr : answerTo (loadedKey s) c =
          .block (engineOutput (engineRun .encrypt (subkeys s.key) (blockOperand (argsOf c)))) := by
        simp [answerTo, hop, loadedKey_of_valid hk, hd]
      refine ⟨_, execEnciv_of_length hk hd, ?_⟩
      rw [hr]
      exact transformAndAnswer_answers .encrypt (blockOperand (argsOf c)) (fun out => out) s
    · have hr : answerTo (loadedKey s) c = .error .invalidIv := by
        simp [answerTo, hop, loadedKey_of_valid hk, hd]
      exact ⟨_, execEnciv_of_length_ne hk hd, hr ▸ raiseError_answers _ s⟩

/-- From `s` to `t` the command `c` has run to its response: the host's view of the core has changed as `answerTo`
and `keyAfter` say, the port is as it was, and the core is idle (20_memory.md R48, 10_state.md R32). -/
structure RunTo (c : Command) (s t : State) : Prop where
  responses : t.responses = s.responses ++ [answerTo (loadedKey s) c]
  loadedKey : loadedKey t = keyAfter (loadedKey s) c
  port : t.port = s.port
  idle : Idle t

/-- An answer that leaves KEY alone completes every command but SETKEY (40_key_setup.md R81). -/
theorem runTo_of_answers {c : Command} {s t : State} (hop : opField c.cmd ≠ 0x1)
    (h : Answers (answerTo (loadedKey s) c) s t) : RunTo c s t := by
  obtain ⟨hresp, hidle, hkey, hvalid, hport⟩ := h
  have hop' : ¬(opField c.cmd).toNat = 1 := by bv_omega
  exact ⟨hresp, by simp [Machine.loadedKey, keyAfter, hkey, hvalid, hop'], hport, hidle⟩

/-- SETKEY loads the key or answers INVALID_KEY (40_key_setup.md R80). -/
theorem execSetkey_runTo {c : Command} (hop : opField c.cmd = 0x1) (s : State) :
    ∃ t, execSetkey (argsOf c) s = .next t ∧ RunTo c s t := by
  by_cases hd : (argsOf c).dlen.toNat = 16
  · exact ⟨_, execSetkey_of_length hd s,
      by simp [answerTo, hop, hd], by simp [loadedKey, keyAfter, hop, hd], by simp, by simp [Idle]⟩
  · exact ⟨_, execSetkey_of_length_ne hd s,
      by simp [answerTo, hop, hd], by simp [keyAfter, hop, hd], rfl, rfl⟩

/-- Every command runs to its response. -/
theorem runCommand_runTo (c : Command) (s : State) : ∃ t, runCommand c s = .next t ∧ RunTo c s t := by
  rcases decode_cases c with ⟨hop, hd⟩ | ⟨hop, hd⟩ | ⟨hop, hd⟩ | ⟨hop, hd⟩ | ⟨hop, hd⟩ <;>
    simp only [runCommand, hd]
  · exact execSetkey_runTo hop s
  · obtain ⟨t, ht, h⟩ := exec_decodeEnc_answers hop s
    exact ⟨t, ht, runTo_of_answers (by simp [hop]) h⟩
  · obtain ⟨t, ht, h⟩ := exec_decodeDec_answers hop s
    exact ⟨t, ht, runTo_of_answers (by simp [hop]) h⟩
  · obtain ⟨t, ht, h⟩ := execEnciv_answers hop s
    exact ⟨t, ht, runTo_of_answers (by simp [hop]) h⟩
  · refine ⟨_, rfl, runTo_of_answers (by bv_omega) ?_⟩
    rw [answerTo_reserved hop]
    exact raiseError_answers .illegalCmd s

theorem idle_of_runCommand {c : Command} {s t : State} (ht : runCommand c s = .next t) : Idle t := by
  obtain ⟨t', ht', h⟩ := runCommand_runTo c s
  cases ht.symm.trans ht'
  exact h.idle

/-- A busy core that is not reset runs the command it holds. -/
theorem step_busy {s : State} {c : Command} (hc : s.inFlight = some c) (hp : s.port.head? ≠ some .reset) :
    step s = runCommand c s := by
  rcases step_cases s with ⟨rest, hr, -⟩ | ⟨d, hd, -, h⟩ | ⟨d, rest, hn, -⟩ | ⟨hn, -⟩
  · exact absurd (by simp [hr]) hp
  · rw [h, Option.some.inj (hc.symm.trans hd)]
  · simp [hn] at hc
  · simp [hn] at hc

/-! ### The obligations -/

/-- Settles O9: the step of a busy core is the run of the command it holds, which touches the port nowhere. -/
theorem busyCoreAcceptsNothing : Obligations.BusyCoreAcceptsNothing := by
  intro s c hc hp
  obtain ⟨t, ht, h⟩ := runCommand_runTo c s
  exact ⟨t, _, (step_busy hc hp).trans ht, h.port, h.idle, h.responses, rfl⟩

/-- Settles O14: a reset abandons the command in flight, a command that runs is answered, and a step without
either changes nothing. -/
theorem stepsLeaveTheCoreIdle : Obligations.StepsLeaveTheCoreIdle := by
  intro s t hs hst
  rcases step_cases s with ⟨rest, -, h⟩ | ⟨c, -, -, h⟩ | ⟨c, rest, -, -, h⟩ | ⟨-, -, h⟩
  · cases h.symm.trans hst
    rfl
  · exact idle_of_runCommand (h.symm.trans hst)
  · exact idle_of_runCommand (h.symm.trans hst)
  · cases h.symm.trans hst
    exact hs

/-- Settles O13: KEY_VALID and BUSY are 0 after reset (10_state.md R31). -/
theorem resetStateValues : Obligations.ResetStateValues :=
  ⟨rfl, rfl, rfl, rfl, rfl⟩

/-- A zero-extended byte keeps its value. -/
theorem toNat_setWidth_byte (b : Byte) : (b.setWidth 32).toNat = b.toNat ∧ (b.setWidth 32).toNat ≤ 255 := by
  bv_omega

/-- Settles O25: each subkey is a zero-extended key byte (10_state.md R23). -/
theorem subkeysAreZeroExtendedBytes : Obligations.SubkeysAreZeroExtendedBytes := by
  intro key
  obtain ⟨h0, l0⟩ := toNat_setWidth_byte key[0]
  obtain ⟨h1, l1⟩ := toNat_setWidth_byte key[1]
  obtain ⟨h2, l2⟩ := toNat_setWidth_byte key[2]
  obtain ⟨h3, l3⟩ := toNat_setWidth_byte key[3]
  exact ⟨h0, h1, h2, h3, l0, l1, l2, l3⟩

end Sys2Proof.Proofs
end

section
/-! PROOFS. Byte order, bus lanes and XOR (20_memory.md R41 to R43, R53): a block on a bus is its two words, one above
the other. -/

namespace Sys2Proof.Proofs

open Sys2Proof Sys2Proof.Machine Sys2Proof.Laws

/-! ### The bytes of a word -/

/-- Four neighbouring bytes of a bus, the highest first, are the 32 bits they cover. -/
theorem be32_extractLsb' {w : Nat} (x : BitVec w) (n : Nat) :
    be32 (x.extractLsb' (n + 24) 8) (x.extractLsb' (n + 16) 8) (x.extractLsb' (n + 8) 8) (x.extractLsb' n 8) =
      x.extractLsb' n 32 := by
  rw [be32, BitVec.extractLsb'_append_extractLsb'_eq_extractLsb' (show n + 24 = n + 16 + 8 from rfl),
    BitVec.extractLsb'_append_extractLsb'_eq_extractLsb' (show n + 16 = n + 8 + 8 from rfl),
    BitVec.extractLsb'_append_extractLsb'_eq_extractLsb' rfl]

/-- Each byte of a word is in its place. -/
theorem extractLsb'_be32 (b0 b1 b2 b3 : Byte) :
    (be32 b0 b1 b2 b3).extractLsb' 24 8 = b0 ∧ (be32 b0 b1 b2 b3).extractLsb' 16 8 = b1 ∧
    (be32 b0 b1 b2 b3).extractLsb' 8 8 = b2 ∧ (be32 b0 b1 b2 b3).extractLsb' 0 8 = b3 := by
  have h := be32_toNat b0 b1 b2 b3
  refine ⟨?_, ?_, ?_, ?_⟩ <;> refine BitVec.eq_of_toNat_eq ?_ <;>
    rw [BitVec.extractLsb'_toNat, h, Nat.shiftRight_eq_div_pow] <;> omega

theorem be32_xor (a0 a1 a2 a3 b0 b1 b2 b3 : Byte) :
    be32 (a0 ^^^ b0) (a1 ^^^ b1) (a2 ^^^ b2) (a3 ^^^ b3) = be32 a0 a1 a2 a3 ^^^ be32 b0 b1 b2 b3 := by
  simp only [be32, ← BitVec.xor_append]

/-! ### Blocks as two words -/

/-- Settles O21: each word has the place values of its four bytes. -/
theorem unpackIsBigEndian : Obligations.UnpackIsBigEndian :=
  ⟨fun _ => ⟨be32_toNat _ _ _ _, be32_toNat _ _ _ _⟩, by decide⟩

theorem unpack_pack (v0 v1 : Word) : unpack (pack v0 v1) = (v0, v1) := by
  refine Prod.ext ?_ ?_
  · exact (be32_extractLsb' v0 0).trans BitVec.extractLsb'_eq_self
  · exact (be32_extractLsb' v1 0).trans BitVec.extractLsb'_eq_self

/-- A block is its eight bytes. -/
theorem block_eq_bytes (b : Block) : #v[b[0], b[1], b[2], b[3], b[4], b[5], b[6], b[7]] = b := by
  ext i hi
  interval_cases i <;> rfl

theorem pack_unpack (b : Block) : pack (unpack b).1 (unpack b).2 = b := by
  obtain ⟨h0, h1, h2, h3⟩ := extractLsb'_be32 b[0] b[1] b[2] b[3]
  obtain ⟨h4, h5, h6, h7⟩ := extractLsb'_be32 b[4] b[5] b[6] b[7]
  simp only [pack, unpack, h0, h1, h2, h3, h4, h5, h6, h7, block_eq_bytes]

/-- Settles O22: the bytes are those of the definition. -/
theorem packInvertsUnpack : Obligations.PackInvertsUnpack :=
  ⟨fun _ _ => rfl, pack_unpack, unpack_pack⟩

/-! ### XOR -/

@[simp] theorem getElem_xorBlock (a b : Block) (i : Nat) (hi : i < 8) :
    (xorBlock a b)[i] = a[i] ^^^ b[i] := by
  simp [xorBlock]

theorem unpack_xorBlock (a b : Block) :
    unpack (xorBlock a b) = ((unpack a).1 ^^^ (unpack b).1, (unpack a).2 ^^^ (unpack b).2) := by
  simp only [unpack, getElem_xorBlock, be32_xor]

/-- A block on its bus is its first word above its second (20_memory.md R43). -/
theorem resultLanes_eq_append (b : Block) : resultLanes b = (unpack b).1 ++ (unpack b).2 := by
  refine BitVec.eq_of_toNat_eq ?_
  simp only [resultLanes, unpack, toNat_append_eq, be32_toNat]
  omega

theorem resultLanes_xorBlock (a b : Block) :
    resultLanes (xorBlock a b) = resultLanes a ^^^ resultLanes b := by
  simp only [resultLanes_eq_append, unpack_xorBlock, ← BitVec.xor_append]

theorem blockOperand_xor (a : Args) (d : BitVec 128) :
    blockOperand { a with d := a.d ^^^ d } = xorBlock (blockOperand a) (blockOperand { a with d := d }) := by
  ext i hi
  simp [blockOperand, dBusByte, BitVec.extractLsb'_xor]

theorem ivOperand_xor (a : Args) (iv : BitVec 64) :
    ivOperand { a with iv := a.iv ^^^ iv } = xorBlock (ivOperand a) (ivOperand { a with iv := iv }) := by
  ext i hi
  simp [ivOperand, ivBusByte, BitVec.extractLsb'_xor]

/-- Settles O23: XOR goes through every concatenation and every lane of a bus. -/
theorem xorCommutesWithUnpack : Obligations.XorCommutesWithUnpack :=
  ⟨unpack_xorBlock, resultLanes_xorBlock, fun a d iv => ⟨blockOperand_xor a d, ivOperand_xor a iv⟩⟩

/-! ### Bus lanes -/

theorem unpack_blockOperand (a : Args) :
    unpack (blockOperand a) = (a.d.extractLsb 127 96, a.d.extractLsb 95 64) := by
  simp only [unpack, blockOperand, Vector.getElem_ofFn, dBusByte]
  exact Prod.ext (be32_extractLsb' a.d 96) (be32_extractLsb' a.d 64)

theorem unpack_ivOperand (a : Args) :
    unpack (ivOperand a) = (a.iv.extractLsb 63 32, a.iv.extractLsb 31 0) := by
  simp only [unpack, ivOperand, Vector.getElem_ofFn, ivBusByte]
  exact Prod.ext (be32_extractLsb' a.iv 32) (be32_extractLsb' a.iv 0)

theorem getElem_keyOperand (a : Args) (i : Fin 16) :
    (keyOperand a)[i] = (a.d >>> (120 - 8 * i.val)).setWidth 8 := by
  simp [keyOperand, dBusByte, BitVec.setWidth_ushiftRight_eq_extractLsb]

/-- Settles O24: the words of an operand are 32 neighbouring bits of its bus, and a result is its two words. -/
theorem busLanes : Obligations.BusLanes :=
  ⟨unpack_blockOperand, unpack_ivOperand, getElem_keyOperand, fun v0 v1 => by
    rw [resultLanes_eq_append, unpack_pack]⟩

end Sys2Proof.Proofs
end

section
/-! PROOFS. The command transaction and runs (20_memory.md R48, R51): the step of an idle core is the run of the host's
next command, the response is a function of the loaded key and the command alone, and a run gives the host's view. -/

namespace Sys2Proof.Proofs

open Sys2Proof Sys2Proof.Machine Sys2Proof.Laws

/-! ### The step of an idle core -/

theorem idle_iff (s : State) : Idle s ↔ s.inFlight = none := by
  simp [Idle]

/-- An idle core accepts the host's next command and runs it. -/
theorem step_idle_command {s : State} {c : Command} {rest : List HostInput} (hs : Idle s)
    (hp : s.port = .command c :: rest) : step s = runCommand c (accept c rest s) := by
  simp only [step, hp, (idle_iff s).mp hs]

/-- Reset at the port wins over everything (70_reset_and_hazards.md R171). -/
theorem step_reset {s : State} {rest : List HostInput} (hp : s.port = .reset :: rest) :
    step s = .next (takeReset rest s) := by
  simp only [step, hp]

theorem runCommand_of_decode {c : Command} {i : Instr} (h : decode c = .ok i) (s : State) :
    runCommand c s = exec i s := by
  simp only [runCommand, h]

/-- What the decoder reads from a table word it reads from the command that the word stands for. -/
theorem decode_tableCommand {nbits w : Nat} {i : Instr} (h : decodeTableWord nbits w = some i) :
    decode (tableCommand nbits w) = .ok i := by
  unfold decodeTableWord at h
  split at h
  · next j hj => rw [hj, Option.some.inj h]
  · cases h

/-- Settles O7: an idle core runs the command it accepts, and running it is the meaning of its instruction. -/
theorem stepRunsTheDecodedCommand : Obligations.StepRunsTheDecodedCommand := by
  intro s c rest i hs hp hd
  exact (step_idle_command hs hp).trans (runCommand_of_decode hd _)

/-- Settles O8: `withFetchWord` makes the core idle with the word at the port, so this is O7. -/
theorem placedWordRunsNext : Obligations.PlacedWordRunsNext := by
  intro s nbits w i h
  exact stepRunsTheDecodedCommand (s.withFetchWord nbits w) _ s.port i rfl rfl (decode_tableCommand h)

/-- Settles O42: the step is the run of the accepted command, which answers by `answerTo` and `keyAfter`. -/
theorem commandIsAnsweredByKeyAndCommandAlone : Obligations.CommandIsAnsweredByKeyAndCommandAlone := by
  intro s c rest hs hp
  obtain ⟨t, ht, hresp, hkey, hport, hidle⟩ := runCommand_runTo c (accept c rest s)
  exact ⟨t, (step_idle_command hs hp).trans ht, hresp, hkey, hport, hidle⟩

/-! ### The host's view along a run -/

/-- Settles O44: reset, an accepted command and an idle step without input are each what `hostView` does with the
next input. -/
theorem stepKeepsTheHostsView : Obligations.StepKeepsTheHostsView := by
  intro s t hs hst
  refine ⟨stepsLeaveTheCoreIdle s t hs hst, ?_⟩
  rcases step_cases s with ⟨rest, hp, h⟩ | ⟨c, hc, -⟩ | ⟨c, rest, -, hp, -⟩ | ⟨-, -, h⟩
  case inl =>
    cases h.symm.trans hst
    rw [hp, loadedKey_of_not_valid (takeReset_keyValid rest s)]
    exact ⟨rfl, rfl⟩
  case inr.inl =>
    cases ((idle_iff s).mp hs).symm.trans hc
  case inr.inr.inl =>
    obtain ⟨t', ht', hresp, hkey, hport, -⟩ := commandIsAnsweredByKeyAndCommandAlone s c rest hs hp
    cases ht'.symm.trans hst
    rw [hp, hresp, hkey, hport, List.append_assoc]
    exact ⟨rfl, rfl⟩
  case inr.inr.inr =>
    cases h.symm.trans hst
    exact ⟨rfl, rfl⟩

/-- The step of an idle core uses up the host's next input. -/
theorem step_consumes_input {s : State} {x : HostInput} {rest : List HostInput} (hs : Idle s)
    (hp : s.port = x :: rest) : ∃ t, step s = .next t ∧ t.port = rest := by
  cases x with
  | reset => exact ⟨_, step_reset hp, takeReset_port rest s⟩
  | command c =>
    obtain ⟨t, ht, -, -, hport, -⟩ := commandIsAnsweredByKeyAndCommandAlone s c rest hs hp
    exact ⟨t, ht, hport⟩

/-- The run over the inputs `inputs` at the port of an idle core: each step uses up one input and keeps the host's view,
which at the end is the responses and the key that are there. -/
theorem run_port_gives_hostView (inputs : List HostInput) (s : State) (hs : Idle s) (hp : s.port = inputs) :
    ∃ t, Host.Core.run Sys2Proof.core inputs.length s = .next t ∧ t.port = [] ∧ Idle t ∧
      t.responses = s.responses ++ (hostView (loadedKey s) inputs).2 ∧
      loadedKey t = (hostView (loadedKey s) inputs).1 := by
  induction inputs generalizing s with
  | nil => exact ⟨s, rfl, hp, hs, (List.append_nil _).symm, rfl⟩
  | cons x rest ih =>
    obtain ⟨t, ht, rfl⟩ := step_consumes_input hs hp
    obtain ⟨hidle, hresp, hkey⟩ := stepKeepsTheHostsView s t hs ht
    obtain ⟨u, hu, huport, huidle, huresp, hukey⟩ := ih t hidle rfl
    rw [hp] at hresp hkey
    exact ⟨u, (run_succ _ ht).trans hu, huport, huidle, huresp.trans hresp, hukey.trans hkey⟩

/-- Settles O43, by induction over the port. -/
theorem runGivesTheHostsView : Obligations.RunGivesTheHostsView :=
  fun s hs => run_port_gives_hostView s.port s hs rfl

/-! ### Instructions that load no key -/

/-- The two states have no loaded key, or keys with the same subkeys: all that an instruction reads of the state
(10_state.md R22, R23). -/
structure SameSubkeys (s t : State) : Prop where
  keyValid : t.keyValid = s.keyValid
  subkeys : s.keyValid = true → subkeys t.key = subkeys s.key

theorem SameSubkeys.refl (s : State) : SameSubkeys s s := ⟨rfl, fun _ => rfl⟩

/-- An answered command leaves the subkeys as they were. -/
theorem sameSubkeys_of_answers {r : Response} {s t : State} (h : Answers r s t) : SameSubkeys s t :=
  ⟨h.keyValid, fun _ => by rw [h.key]⟩

/-- One response to the instruction, and the frame of an answer, in every state with the subkeys of `s`. -/
def AnswersAlike (i : Instr) (s : State) : Prop :=
  ∃ r, ∀ t, SameSubkeys s t → ∃ t', exec i t = .next t' ∧ Answers r t t'

theorem answersAlike_of_raiseError {i : Instr} {s : State} {e : ErrorKind}
    (h : ∀ t, SameSubkeys s t → exec i t = .next (raiseError e t)) : AnswersAlike i s :=
  ⟨.error e, fun t ht => ⟨_, h t ht, raiseError_answers e t⟩⟩

theorem answersAlike_of_transformAndAnswer {i : Instr} {s : State} {dir : Direction} {b : Block}
    {post : Block → Block} (hk : s.keyValid = true)
    (h : ∀ t, SameSubkeys s t → exec i t = .next (transformAndAnswer dir b post t)) : AnswersAlike i s :=
  ⟨.block (post (engineOutput (engineRun dir (subkeys s.key) b))), fun t ht =>
    ⟨_, h t ht, ht.subkeys hk ▸ transformAndAnswer_answers dir b post t⟩⟩

/-- VALIDATE finds the same in `s` and in the other state, so both raise it or both run the engine. -/
theorem answersAlike_of_blockCommand {i : Instr} {m : CipherMode} {pre : EngineInput} {dir : Direction}
    {post : ResultSelect} {a : Args} (h : ∀ t, exec i t = .next (blockCommand m pre dir post a t)) (s : State) :
    AnswersAlike i s := by
  have hcongr (t : State) (ht : SameSubkeys s t) := validate_congr (some m) a t s ht.keyValid
  cases hv : validate (some m) a s with
  | some e =>
    exact answersAlike_of_raiseError fun t ht => by
      rw [h, blockCommand, hcongr t ht, hv]
  | none =>
    obtain ⟨hk, -⟩ := (validate_eq_none_iff m a s).mp hv
    exact answersAlike_of_transformAndAnswer hk fun t ht => by
      rw [h, blockCommand, hcongr t ht, hv]

theorem answersAlike_of_badModeCommand {i : Instr} {a : Args}
    (h : ∀ t, exec i t = .next (badModeCommand a t)) (s : State) : AnswersAlike i s := by
  obtain ⟨e, he, -⟩ := badModeCommand_eq a s
  exact answersAlike_of_raiseError fun t ht => by
    rw [h, badModeCommand, validate_congr none a t s ht.keyValid, he]

/-- ENCIV reads the loaded key and its operand (41_core_transform.md R98). -/
theorem enciv_answersAlike (mode : BitVec 4) (a : Args) (s : State) : AnswersAlike (.enciv mode a) s := by
  cases hk : s.keyValid with
  | false => exact answersAlike_of_raiseError fun t ht => execEnciv_of_not_valid (ht.keyValid.trans hk) a
  | true =>
    by_cases hd : a.dlen.toNat = 8
    · exact answersAlike_of_transformAndAnswer hk fun t ht => execEnciv_of_length (ht.keyValid.trans hk) hd
    · exact answersAlike_of_raiseError fun t ht => execEnciv_of_length_ne (ht.keyValid.trans hk) hd

/-- An instruction that loads no key answers alike in all states with the same subkeys. -/
theorem answersAlike {i : Instr} (hi : isSuccessfulSetkey i = false) (s : State) : AnswersAlike i s := by
  cases i with
  | setkey mode a =>
    exact answersAlike_of_raiseError fun t _ => execSetkey_of_length_ne (by simpa [isSuccessfulSetkey] using hi) t
  | enciv mode a => exact enciv_answersAlike mode a s
  | encBadmode mode a => exact answersAlike_of_badModeCommand (fun _ => rfl) s
  | decBadmode mode a => exact answersAlike_of_badModeCommand (fun _ => rfl) s
  | encEcb a => exact answersAlike_of_blockCommand (fun _ => rfl) s
  | encCbc a => exact answersAlike_of_blockCommand (fun _ => rfl) s
  | encCfb a => exact answersAlike_of_blockCommand (fun _ => rfl) s
  | encOfb a => exact answersAlike_of_blockCommand (fun _ => rfl) s
  | decEcb a => exact answersAlike_of_blockCommand (fun _ => rfl) s
  | decCbc a => exact answersAlike_of_blockCommand (fun _ => rfl) s
  | decCfb a => exact answersAlike_of_blockCommand (fun _ => rfl) s
  | decOfb a => exact answersAlike_of_blockCommand (fun _ => rfl) s

/-- Settles O39: the first of two such instructions leaves the subkeys as they were, so the second answers as it
would have answered before it. -/
theorem orderOfOtherCommandsDoesNotMatter : Obligations.OrderOfOtherCommandsDoesNotMatter := by
  intro i j s hi hj
  obtain ⟨ri, hri⟩ := answersAlike hi s
  obtain ⟨rj, hrj⟩ := answersAlike hj s
  obtain ⟨t₁, ht₁, hit₁⟩ := hri s (.refl s)
  obtain ⟨t₂, ht₂, hjt₂⟩ := hrj t₁ (sameSubkeys_of_answers hit₁)
  obtain ⟨u₁, hu₁, hju₁⟩ := hrj s (.refl s)
  obtain ⟨u₂, hu₂, hiu₂⟩ := hri u₁ (sameSubkeys_of_answers hju₁)
  exact ⟨ri, rj, t₁, t₂, u₁, u₂, ht₁, hit₁.responses, ht₂, hjt₂.responses, hu₁, hju₁.responses, hu₂,
    hiu₂.responses⟩

end Sys2Proof.Proofs
end

section
/-! PROOFS. Encoding (30_encoding.md R60 to R69): the fields of a command word, decoding and encoding as inverses, and
the command table. -/

namespace Sys2Proof.Proofs

open Sys2Proof Sys2Proof.Machine Sys2Proof.Laws

/-! ### The fields of a command word -/

/-- A field read off as a number. -/
theorem extractLsb'_eq_of_toNat {w n start : Nat} {x : BitVec w} {y : BitVec n}
    (h : x.toNat / 2 ^ start % 2 ^ n = y.toNat) : x.extractLsb' start n = y :=
  BitVec.eq_of_toNat_eq (by rw [BitVec.extractLsb'_toNat, Nat.shiftRight_eq_div_pow, h])

@[simp] theorem opField_commandWord (mode op : BitVec 4) (a : Args) : opField (commandWord mode op a) = op :=
  extractLsb'_eq_of_toNat (by rw [commandWord_toNat]; omega)

@[simp] theorem modeField_commandWord (mode op : BitVec 4) (a : Args) :
    modeField (commandWord mode op a) = mode :=
  extractLsb'_eq_of_toNat (by rw [commandWord_toNat]; omega)

@[simp] theorem argsOf_commandWord (mode op : BitVec 4) (a : Args) :
    argsOf ⟨commandWord mode op a, a.d, a.iv⟩ = a := by
  have hword := commandWord_toNat mode op a
  have hbit := a.ivp.toNat_le
  have hivp : (commandWord mode op a).getLsbD 8 = a.ivp := by
    rw [commandWord, BitVec.getLsbD_append, BitVec.getLsbD_append, BitVec.getLsbD_append]
    simp
  have hreserved : (commandWord mode op a).extractLsb' 9 7 = a.reserved :=
    extractLsb'_eq_of_toNat (by rw [hword]; omega)
  have hdlen : (commandWord mode op a).extractLsb' 16 8 = a.dlen := extractLsb'_eq_of_toNat (by rw [hword]; omega)
  have hivlen : (commandWord mode op a).extractLsb' 24 8 = a.ivlen := extractLsb'_eq_of_toNat (by rw [hword]; omega)
  simp only [argsOf, hivp, hreserved, hdlen, hivlen]

/-- A bit as a word of its own is the same bit extracted. -/
theorem ofBool_getLsbD {w : Nat} (x : BitVec w) (i : Nat) : BitVec.ofBool (x.getLsbD i) = x.extractLsb' i 1 := by
  ext j hj
  obtain rfl : j = 0 := by omega
  simp

/-- A command word is its six fields, side by side (30_encoding.md R60). -/
theorem commandWord_fields (c : Command) : commandWord (modeField c.cmd) (opField c.cmd) (argsOf c) = c.cmd := by
  simp only [commandWord, argsOf, modeField, opField, ofBool_getLsbD]
  rw [BitVec.extractLsb'_append_extractLsb'_eq_extractLsb' (show 24 = 16 + 8 from rfl),
    BitVec.extractLsb'_append_extractLsb'_eq_extractLsb' (show 16 = 9 + 7 from rfl),
    BitVec.extractLsb'_append_extractLsb'_eq_extractLsb' (show 9 = 8 + 1 from rfl),
    BitVec.extractLsb'_append_extractLsb'_eq_extractLsb' (show 8 = 4 + 4 from rfl),
    BitVec.extractLsb'_append_extractLsb'_eq_extractLsb' (show 4 = 0 + 4 from rfl)]
  exact BitVec.extractLsb'_eq_self

/-! ### Decoding an operation code -/

theorem decode_setkey {c : Command} (h : opField c.cmd = 0x1) :
    decode c = .ok (.setkey (modeField c.cmd) (argsOf c)) := by
  simp [decode, h]

theorem decode_enc {c : Command} (h : opField c.cmd = 0x2) :
    decode c = .ok (decodeEnc (modeField c.cmd) (argsOf c)) := by
  simp [decode, h]

theorem decode_dec {c : Command} (h : opField c.cmd = 0x3) :
    decode c = .ok (decodeDec (modeField c.cmd) (argsOf c)) := by
  simp [decode, h]

theorem decode_enciv {c : Command} (h : opField c.cmd = 0x4) :
    decode c = .ok (.enciv (modeField c.cmd) (argsOf c)) := by
  simp [decode, h]

theorem decode_reserved {c : Command} (h : opField c.cmd = 0x0 ∨ 0x5 ≤ opField c.cmd) :
    decode c = .error (.reservedOp (opField c.cmd)) := by
  rcases decode_cases c with ⟨hop, -⟩ | ⟨hop, -⟩ | ⟨hop, -⟩ | ⟨hop, -⟩ | ⟨-, hd⟩
  case inr.inr.inr.inr => exact hd
  all_goals exact absurd h (by rw [hop]; decide)

theorem eq_reservedOp_of_decode_error {c : Command} {e : DecodeError} (h : decode c = .error e) :
    e = .reservedOp (opField c.cmd) := by
  rcases decode_cases c with ⟨-, hd⟩ | ⟨-, hd⟩ | ⟨-, hd⟩ | ⟨-, hd⟩ | ⟨-, hd⟩ <;> cases hd.symm.trans h
  rfl

/-- The codes 0x4..0xF and no others are no variant (30_encoding.md R62). -/
theorem modeOfCode_eq_none_iff (code : BitVec 4) : modeOfCode code = none ↔ 4 ≤ code.toNat := by
  rcases modeOfCode_cases code with ⟨rfl, h⟩ | ⟨rfl, h⟩ | ⟨rfl, h⟩ | ⟨rfl, h⟩ | ⟨hc, h⟩ <;> rw [h]
  case inr.inr.inr.inr => exact iff_of_true rfl hc
  all_goals decide

theorem isBadModeCode_iff (mode : BitVec 4) : isBadModeCode mode = true ↔ modeOfCode mode = none := by
  rw [modeOfCode_eq_none_iff, isBadModeCode, decide_eq_true_iff]

theorem decodeEnc_of_no_variant {mode : BitVec 4} (h : modeOfCode mode = none) (a : Args) :
    decodeEnc mode a = .encBadmode mode a := by
  simp only [decodeEnc, h]

theorem decodeDec_of_no_variant {mode : BitVec 4} (h : modeOfCode mode = none) (a : Args) :
    decodeDec mode a = .decBadmode mode a := by
  simp only [decodeDec, h]

/-! ### Decoding what was encoded -/

@[simp] theorem opField_encode (i : Instr) : opField (encode i).cmd = opCode i := opField_commandWord _ _ _

@[simp] theorem modeField_encode (i : Instr) : modeField (encode i).cmd = modeCode i := modeField_commandWord _ _ _

@[simp] theorem argsOf_encode (i : Instr) : argsOf (encode i) = i.args := argsOf_commandWord _ _ _

theorem decode_encode_enc {i : Instr} (h : opCode i = 0x2) :
    decode (encode i) = .ok (decodeEnc (modeCode i) i.args) := by
  rw [decode_enc ((opField_encode i).trans h), modeField_encode, argsOf_encode]

theorem decode_encode_dec {i : Instr} (h : opCode i = 0x3) :
    decode (encode i) = .ok (decodeDec (modeCode i) i.args) := by
  rw [decode_dec ((opField_encode i).trans h), modeField_encode, argsOf_encode]

/-- Settles O1: the encoder's fields are read back, and OP with MODE selects the constructor; a BADMODE instruction is
read back because its mode code is no variant. -/
theorem decodeEncodeRoundTrip : Obligations.DecodeEncodeRoundTrip := by
  intro i hwf
  cases i with
  | setkey mode a => rw [decode_setkey (opField_encode _), modeField_encode, argsOf_encode]; rfl
  | enciv mode a => rw [decode_enciv (opField_encode _), modeField_encode, argsOf_encode]; rfl
  | encEcb a => exact decode_encode_enc rfl
  | encCbc a => exact decode_encode_enc rfl
  | encCfb a => exact decode_encode_enc rfl
  | encOfb a => exact decode_encode_enc rfl
  | decEcb a => exact decode_encode_dec rfl
  | decCbc a => exact decode_encode_dec rfl
  | decCfb a => exact decode_encode_dec rfl
  | decOfb a => exact decode_encode_dec rfl
  | encBadmode mode a =>
    rw [decode_encode_enc rfl]
    exact congrArg _ (decodeEnc_of_no_variant ((isBadModeCode_iff mode).mp hwf) a)
  | decBadmode mode a =>
    rw [decode_encode_dec rfl]
    exact congrArg _ (decodeDec_of_no_variant ((isBadModeCode_iff mode).mp hwf) a)

/-! ### Encoding what was decoded -/

/-- The instruction is well formed and has the operation code, the mode code and the fields given. -/
structure HasFields (i : Instr) (op mode : BitVec 4) (a : Args) : Prop where
  op : opCode i = op
  mode : modeCode i = mode
  args : i.args = a
  wf : i.wf = true

theorem decodeEnc_hasFields (mode : BitVec 4) (a : Args) : HasFields (decodeEnc mode a) 0x2 mode a := by
  rcases modeOfCode_cases mode with ⟨rfl, -⟩ | ⟨rfl, -⟩ | ⟨rfl, -⟩ | ⟨rfl, -⟩ | ⟨-, hm⟩
  case inr.inr.inr.inr =>
    rw [decodeEnc_of_no_variant hm]
    exact ⟨rfl, rfl, rfl, (isBadModeCode_iff mode).mpr hm⟩
  all_goals exact ⟨rfl, rfl, rfl, rfl⟩

theorem decodeDec_hasFields (mode : BitVec 4) (a : Args) : HasFields (decodeDec mode a) 0x3 mode a := by
  rcases modeOfCode_cases mode with ⟨rfl, -⟩ | ⟨rfl, -⟩ | ⟨rfl, -⟩ | ⟨rfl, -⟩ | ⟨-, hm⟩
  case inr.inr.inr.inr =>
    rw [decodeDec_of_no_variant hm]
    exact ⟨rfl, rfl, rfl, (isBadModeCode_iff mode).mpr hm⟩
  all_goals exact ⟨rfl, rfl, rfl, rfl⟩

/-- A command decodes to a well-formed instruction with the command's own fields. -/
theorem hasFields_of_decode {c : Command} {i : Instr} (h : decode c = .ok i) :
    HasFields i (opField c.cmd) (modeField c.cmd) (argsOf c) := by
  rcases decode_cases c with ⟨hop, hd⟩ | ⟨hop, hd⟩ | ⟨hop, hd⟩ | ⟨hop, hd⟩ | ⟨-, hd⟩ <;>
    cases hd.symm.trans h <;> rw [hop]
  · exact ⟨rfl, rfl, rfl, rfl⟩
  · exact decodeEnc_hasFields _ _
  · exact decodeDec_hasFields _ _
  · exact ⟨rfl, rfl, rfl, rfl⟩

/-- Settles O2: the instruction has the command's fields, and a command word is its fields side by side. -/
theorem decodedCommandsReencode : Obligations.DecodedCommandsReencode := by
  intro c i h
  obtain ⟨hop, hmode, hargs, hwf⟩ := hasFields_of_decode h
  exact ⟨by rw [encode, hop, hmode, hargs, commandWord_fields]; rfl, hwf⟩

/-! ### The command table -/

/-- The mnemonic of the first row of the command table that a word fits (30_encoding.md R68, R69). -/
def firstRowName (cmd : BitVec 32) : Option String :=
  (commandTable.find? fun r => r.fits cmd).map TableRow.mnemonic

/-- The table reads MODE and OP and no other bit: no mask goes beyond the low byte. -/
theorem firstRowName_eq_of_fields (cmd : BitVec 32) :
    firstRowName cmd = firstRowName ((modeField cmd ++ opField cmd).setWidth 32) := by
  have hlow : cmd &&& 0xFF = (modeField cmd ++ opField cmd).setWidth 32 := by
    have hword := commandWord_and_0xFF (modeField cmd) (opField cmd) (argsOf ⟨cmd, 0, 0⟩)
    rwa [commandWord_fields ⟨cmd, 0, 0⟩] at hword
  have hmask : ∀ r ∈ commandTable, 0xFF &&& r.mask = r.mask := by decide
  rw [firstRowName, firstRowName, ← hlow, List.find?_congr fun r hr => ?_]
  rw [TableRow.fits, TableRow.fits, BitVec.and_assoc, hmask r hr]

/-- The rows whose mask leaves MODE open and that are tried in any case. -/
theorem firstRowName_of_open_mode (mode : BitVec 4) :
    firstRowName ((mode ++ 0x1#4).setWidth 32) = some "SETKEY" ∧
    firstRowName ((mode ++ 0x4#4).setWidth 32) = some "ENCIV" := by
  decide +kernel +revert

/-- The rows that are tried after the valid-mode rows. -/
theorem firstRowName_of_no_variant {mode : BitVec 4} (h : 4 ≤ mode.toNat) :
    firstRowName ((mode ++ 0x2#4).setWidth 32) = some "ENC.BADMODE" ∧
    firstRowName ((mode ++ 0x3#4).setWidth 32) = some "DEC.BADMODE" := by
  decide +kernel +revert

/-- No row has a reserved OP. -/
theorem firstRowName_of_reserved {op : BitVec 4} (h : op = 0x0 ∨ 0x5 ≤ op) (mode : BitVec 4) :
    firstRowName ((mode ++ op).setWidth 32) = none := by
  decide +kernel +revert

theorem firstRowName_enc (mode : BitVec 4) (a : Args) :
    firstRowName ((mode ++ 0x2#4).setWidth 32) = some (mnemonic (decodeEnc mode a)) := by
  rcases modeOfCode_cases mode with ⟨rfl, -⟩ | ⟨rfl, -⟩ | ⟨rfl, -⟩ | ⟨rfl, -⟩ | ⟨hm, hn⟩
  case inr.inr.inr.inr =>
    rw [decodeEnc_of_no_variant hn]
    exact (firstRowName_of_no_variant hm).1
  all_goals rfl

theorem firstRowName_dec (mode : BitVec 4) (a : Args) :
    firstRowName ((mode ++ 0x3#4).setWidth 32) = some (mnemonic (decodeDec mode a)) := by
  rcases modeOfCode_cases mode with ⟨rfl, -⟩ | ⟨rfl, -⟩ | ⟨rfl, -⟩ | ⟨rfl, -⟩ | ⟨hm, hn⟩
  case inr.inr.inr.inr =>
    rw [decodeDec_of_no_variant hn]
    exact (firstRowName_of_no_variant hm).2
  all_goals rfl

/-- The command table and the case distinction on OP and MODE say the same (30_encoding.md R68). -/
theorem firstRowName_eq_decode (c : Command) : firstRowName c.cmd = (decode c).toOption.map mnemonic := by
  rw [firstRowName_eq_of_fields]
  rcases decode_cases c with ⟨hop, hd⟩ | ⟨hop, hd⟩ | ⟨hop, hd⟩ | ⟨hop, hd⟩ | ⟨hop, hd⟩ <;> rw [hd]
  · rw [hop]
    exact (firstRowName_of_open_mode _).1
  · rw [hop]
    exact firstRowName_enc _ _
  · rw [hop]
    exact firstRowName_dec _ _
  · rw [hop]
    exact (firstRowName_of_open_mode _).2
  · exact firstRowName_of_reserved hop _

theorem decodeEnc_eq_ite (mode : BitVec 4) (a : Args) :
    decodeEnc mode a =
      if mode = 0x0 then .encEcb a else if mode = 0x1 then .encCbc a else if mode = 0x2 then .encCfb a
      else if mode = 0x3 then .encOfb a else .encBadmode mode a := by
  rcases modeOfCode_cases mode with ⟨rfl, -⟩ | ⟨rfl, -⟩ | ⟨rfl, -⟩ | ⟨rfl, -⟩ | ⟨hm, hn⟩
  case inr.inr.inr.inr =>
    rw [decodeEnc_of_no_variant hn, if_neg, if_neg, if_neg, if_neg] <;> bv_omega
  all_goals rfl

theorem decodeDec_eq_ite (mode : BitVec 4) (a : Args) :
    decodeDec mode a =
      if mode = 0x0 then .decEcb a else if mode = 0x1 then .decCbc a else if mode = 0x2 then .decCfb a
      else if mode = 0x3 then .decOfb a else .decBadmode mode a := by
  rcases modeOfCode_cases mode with ⟨rfl, -⟩ | ⟨rfl, -⟩ | ⟨rfl, -⟩ | ⟨rfl, -⟩ | ⟨hm, hn⟩
  case inr.inr.inr.inr =>
    rw [decodeDec_of_no_variant hn, if_neg, if_neg, if_neg, if_neg] <;> bv_omega
  all_goals rfl

/-- Settles O3: OP and MODE select the instruction, and the command table's first fitting row has its name or, where
OP is reserved, there is none. -/
theorem decodeFollowsTheCommandTable : Obligations.DecodeFollowsTheCommandTable := by
  intro c
  have htable := firstRowName_eq_decode c
  refine ⟨decode_setkey, fun h => ?_, fun h => ?_, decode_enciv, decode_reserved, fun row hrow => ?_, fun hnone => ?_⟩
  · rw [decode_enc h, decodeEnc_eq_ite]
  · rw [decode_dec h, decodeDec_eq_ite]
  · rw [firstRowName, hrow] at htable
    cases hd : decode c with
    | error e => simp [hd, Except.toOption] at htable
    | ok i => exact ⟨i, rfl, by simpa [hd, Except.toOption] using htable.symm⟩
  · rw [firstRowName, hnone] at htable
    cases hd : decode c with
    | error e => rw [eq_reservedOp_of_decode_error hd]
    | ok i => simp [hd, Except.toOption] at htable

/-! ### Fixed codes and words -/

/-- Settles O4: the decoder runs on the eight words. -/
theorem specWordsDecode : Obligations.SpecWordsDecode :=
  ⟨rfl, rfl, rfl, rfl, rfl, rfl, rfl, rfl⟩

/-- Settles O5. -/
theorem modeTaxonomy : Obligations.ModeTaxonomy := by
  refine ⟨rfl, rfl, rfl, rfl, fun code => (modeOfCode_eq_none_iff code).mpr, fun m => ?_⟩
  cases m <;> simp [requiresIv]

end Sys2Proof.Proofs
end

section
/-! PROOFS. The assembler (30_encoding.md R70, R71): the command of a line carries the line's operation, mode, lengths
and operand bytes. -/

namespace Sys2Proof.Proofs

open Sys2Proof Sys2Proof.Machine Sys2Proof.Laws

/-- The fields and operands that a line with these operands writes. -/
def operandFields (data : List Byte) (iv : Option (List Byte)) : Args :=
  { ivp := iv.isSome
    reserved := 0
    dlen := BitVec.ofNat 8 data.length
    ivlen := BitVec.ofNat 8 (iv.getD []).length
    d := lanes Config.keyBytes data
    iv := lanes Config.ivBytes (iv.getD []) }

/-- The command that a line with this operation, mode and these operands is assembled to. -/
def lineCommand (op mode : BitVec 4) (data : List Byte) (iv : Option (List Byte)) : Command :=
  { cmd := commandWord mode op (operandFields data iv)
    d := (operandFields data iv).d
    iv := (operandFields data iv).iv }

theorem argsOfOperands_eq {data : List Byte} {iv : Option (List Byte)} (hdata : data.length < 256)
    (hiv : (iv.getD []).length < 256) : argsOfOperands data iv = some (operandFields data iv) := by
  simp only [argsOfOperands, lengthField_eq _ hdata, lengthField_eq _ hiv]
  rfl

theorem lineCommand_carries (op mode : BitVec 4) {data : List Byte} {iv : Option (List Byte)}
    (hdata : data.length < 256) (hiv : (iv.getD []).length < 256) :
    Carries (lineCommand op mode data iv) op mode data iv where
  op := opField_commandWord mode op _
  mode := modeField_commandWord mode op _
  reserved := by rw [lineCommand, argsOf_commandWord]; rfl
  dlen := by rw [lineCommand, argsOf_commandWord]; exact Nat.mod_eq_of_lt hdata
  ivp := by rw [lineCommand, argsOf_commandWord]; rfl
  ivlen := by rw [lineCommand, argsOf_commandWord]; exact Nat.mod_eq_of_lt hiv
  dataBytes n hn h16 := (dBusByte_lanes data n h16).trans (List.getD_eq_getElem _ _ hn)
  ivBytes n hn h8 := (ivBusByte_lanes (iv.getD []) n h8).trans (List.getD_eq_getElem _ _ hn)

theorem assemble_setkey {key : List Byte} (h : key.length < 256) :
    assemble (.setkey key) = some (lineCommand 0x1 0x0 key none) := by
  rw [assemble, argsOfOperands_eq h (by decide)]
  rfl

theorem assemble_enc (mode : BitVec 4) {block : List Byte} {iv : Option (List Byte)} (hblock : block.length < 256)
    (hiv : (iv.getD []).length < 256) : assemble (.enc mode block iv) = some (lineCommand 0x2 mode block iv) := by
  rw [assemble, argsOfOperands_eq hblock hiv]
  rfl

theorem assemble_dec (mode : BitVec 4) {block : List Byte} {iv : Option (List Byte)} (hblock : block.length < 256)
    (hiv : (iv.getD []).length < 256) : assemble (.dec mode block iv) = some (lineCommand 0x3 mode block iv) := by
  rw [assemble, argsOfOperands_eq hblock hiv]
  rfl

theorem assemble_enciv {iv : List Byte} (h : iv.length < 256) :
    assemble (.enciv iv) = some (lineCommand 0x4 0x0 iv none) := by
  rw [assemble, argsOfOperands_eq h (by decide)]
  rfl

section

variable {c : Command} {op mode : BitVec 4} {data : List Byte} {iv : Option (List Byte)}

theorem keyOperand_of_carries (h : Carries c op mode data iv) {key : Key} (hkey : data = key.toList) :
    keyOperand (argsOf c) = key := by
  subst hkey
  ext i hi : 1
  rw [keyOperand, Vector.getElem_ofFn]
  exact (h.dataBytes i (by simpa using hi) hi).trans (Vector.getElem_toList _)

theorem blockOperand_of_carries (h : Carries c op mode data iv) {b : Block} (hb : data = b.toList) :
    blockOperand (argsOf c) = b := by
  subst hb
  ext i hi : 1
  rw [blockOperand, Vector.getElem_ofFn]
  exact (h.dataBytes i (by simpa using hi) (by omega)).trans (Vector.getElem_toList _)

theorem ivOperand_of_carries (h : Carries c op mode data iv) {b : Block} (hb : iv = some b.toList) :
    ivOperand (argsOf c) = b := by
  subst hb
  ext i hi : 1
  rw [ivOperand, Vector.getElem_ofFn]
  exact (h.ivBytes i (by simpa using hi) hi).trans (Vector.getElem_toList _)

end

/-- Settles O6: each line is assembled to its `lineCommand`, which carries its operands; a command that carries an
operand of the right length holds it byte by byte in the lanes that the operand is read from. -/
theorem assembledLinesCarryTheirOperands : Obligations.AssembledLinesCarryTheirOperands :=
  ⟨fun _ h => ⟨_, assemble_setkey h, lineCommand_carries _ _ h (by decide)⟩,
    fun mode _ _ hb hiv => ⟨⟨_, assemble_enc mode hb hiv, lineCommand_carries _ _ hb hiv⟩,
      ⟨_, assemble_dec mode hb hiv, lineCommand_carries _ _ hb hiv⟩⟩,
    fun _ h => ⟨_, assemble_enciv h, lineCommand_carries _ _ h (by decide)⟩,
    fun _ _ _ _ _ h => ⟨fun _ => keyOperand_of_carries h, fun _ => blockOperand_of_carries h,
      fun _ => ivOperand_of_carries h⟩⟩

end Sys2Proof.Proofs
end

section
/-! PROOFS. Responses and the fields that a command's meaning reads (30_encoding.md R66, R67). -/

namespace Sys2Proof.Proofs

open Sys2Proof Sys2Proof.Machine Sys2Proof.Laws

/-! ### The form of a response -/

theorem blockAnswer_cases (k : Subkeys) (enc : Bool) (c : Command) :
    (∃ b, blockAnswer k enc c = .block b) ∨ (∃ e, blockAnswer k enc c = .error e) := by
  unfold blockAnswer
  dsimp only
  split
  · exact .inr ⟨.invalidBlock, rfl⟩
  split
  · exact .inr ⟨.invalidMode, rfl⟩
  split
  · exact .inl ⟨_, rfl⟩
  split
  · exact .inr ⟨.invalidIv, rfl⟩
  split <;> exact .inl ⟨_, rfl⟩

theorem blockReply_cases (enc : Bool) (key : Option Key) (c : Command) :
    (∃ b, blockReply enc key c = .block b) ∨ (∃ e, blockReply enc key c = .error e) := by
  cases key with
  | none => exact .inr ⟨_, rfl⟩
  | some k => exact blockAnswer_cases (subkeys k) enc c

/-- The three forms of an answer, by the operation that gives it (30_encoding.md R66). -/
theorem answerTo_cases (key : Option Key) (c : Command) :
    (∃ b, answerTo key c = .block b ∧ (opField c.cmd = 0x2 ∨ opField c.cmd = 0x3 ∨ opField c.cmd = 0x4)) ∨
    (answerTo key c = .keyLoaded ∧ opField c.cmd = 0x1) ∨ (∃ e, answerTo key c = .error e) := by
  rcases decode_cases c with ⟨hop, -⟩ | ⟨hop, -⟩ | ⟨hop, -⟩ | ⟨hop, -⟩ | ⟨hop, -⟩
  · by_cases hd : (argsOf c).dlen.toNat = 16
    · exact .inr (.inl ⟨by simp [answerTo, hop, hd], hop⟩)
    · exact .inr (.inr ⟨.invalidKey, by simp [answerTo, hop, hd]⟩)
  · rw [answerTo_enc hop]
    exact (blockReply_cases true key c).imp (fun ⟨b, hb⟩ => ⟨b, hb, .inl hop⟩) .inr
  · rw [answerTo_dec hop]
    exact (blockReply_cases false key c).imp (fun ⟨b, hb⟩ => ⟨b, hb, .inr (.inl hop)⟩) .inr
  · cases key with
    | none => exact .inr (.inr ⟨.noKey, by simp [answerTo, hop]⟩)
    | some k =>
      by_cases hd : (argsOf c).dlen.toNat = 8
      · exact .inl ⟨_, by simp [answerTo, hop, hd]; rfl, .inr (.inr hop)⟩
      · exact .inr (.inr ⟨.invalidIv, by simp [answerTo, hop, hd]⟩)
  · exact .inr (.inr ⟨_, answerTo_reserved hop key⟩)

/-- Settles O15: the one response is `answerTo`, which has one of three forms. -/
theorem oneResponsePerCommand : Obligations.OneResponsePerCommand := by
  refine ⟨⟨rfl, rfl, rfl, rfl, rfl, rfl⟩, fun s c rest hs hp => ?_⟩
  obtain ⟨t, ht, hresp, -, hport, hidle⟩ := commandIsAnsweredByKeyAndCommandAlone s c rest hs hp
  refine ⟨t, _, ht, hresp, hport, hidle, ?_⟩
  rcases answerTo_cases (loadedKey s) c with ⟨b, hr, hop⟩ | ⟨hr, hop⟩ | ⟨e, hr⟩ <;> rw [hr]
  · exact .inl ⟨b, rfl, rfl, rfl, hop⟩
  · exact .inr (.inl ⟨rfl, rfl, rfl, hop⟩)
  · exact .inr (.inr ⟨e, rfl, rfl, rfl⟩)

/-! ### The reserved bits -/

/-- Words that agree under a mask agree in every field that the mask covers. -/
theorem extractLsb'_eq_of_and_eq {w start len : Nat} {x y m : BitVec w} (h : x &&& m = y &&& m)
    (hm : m.extractLsb' start len = BitVec.allOnes len) : x.extractLsb' start len = y.extractLsb' start len := by
  have hfield := congrArg (BitVec.extractLsb' start len) h
  simpa only [BitVec.extractLsb'_and, hm, BitVec.and_allOnes] using hfield

/-- Commands with the same words outside CMD[15:9] and the same buses have the same fields but the reserved one. -/
theorem argsOf_eq_of_and_eq {c c' : Command} (h : c.cmd &&& 0xFFFF01FF = c'.cmd &&& 0xFFFF01FF) (hd : c.d = c'.d)
    (hiv : c.iv = c'.iv) : argsOf c' = { argsOf c with reserved := (argsOf c').reserved } := by
  have hivp : c.cmd.getLsbD 8 = c'.cmd.getLsbD 8 := by
    rw [BitVec.getLsbD_eq_extractLsb', BitVec.getLsbD_eq_extractLsb', extractLsb'_eq_of_and_eq h rfl]
  have hdlen : c.cmd.extractLsb' 16 8 = c'.cmd.extractLsb' 16 8 := extractLsb'_eq_of_and_eq h rfl
  have hivlen : c.cmd.extractLsb' 24 8 = c'.cmd.extractLsb' 24 8 := extractLsb'_eq_of_and_eq h rfl
  simp only [argsOf, hivp, hdlen, hivlen, hd, hiv]

theorem exec_decodeEnc_reserved (mode : BitVec 4) (a : Args) (r : BitVec 7) (s : State) :
    exec (decodeEnc mode { a with reserved := r }) s = exec (decodeEnc mode a) s := by
  unfold decodeEnc
  split <;> rfl

theorem exec_decodeDec_reserved (mode : BitVec 4) (a : Args) (r : BitVec 7) (s : State) :
    exec (decodeDec mode { a with reserved := r }) s = exec (decodeDec mode a) s := by
  unfold decodeDec
  split <;> rfl

/-- Running a command reads no reserved bit: no meaning reads the field. -/
theorem runCommand_congr_reserved {c c' : Command} (hop : opField c'.cmd = opField c.cmd)
    (hmode : modeField c'.cmd = modeField c.cmd)
    (hargs : argsOf c' = { argsOf c with reserved := (argsOf c').reserved }) (s : State) :
    runCommand c' s = runCommand c s := by
  rcases decode_cases c with ⟨h, hd⟩ | ⟨h, hd⟩ | ⟨h, hd⟩ | ⟨h, hd⟩ | ⟨h, hd⟩
  · rw [runCommand_of_decode hd, runCommand_of_decode (decode_setkey (hop.trans h)), hargs]
    rfl
  · rw [runCommand_of_decode hd, runCommand_of_decode (decode_enc (hop.trans h)), hargs, hmode]
    exact exec_decodeEnc_reserved _ _ _ s
  · rw [runCommand_of_decode hd, runCommand_of_decode (decode_dec (hop.trans h)), hargs, hmode]
    exact exec_decodeDec_reserved _ _ _ s
  · rw [runCommand_of_decode hd, runCommand_of_decode (decode_enciv (hop.trans h)), hargs]
    rfl
  · simp only [runCommand, hd, decode_reserved (hop ▸ h)]

/-- No meaning reads the copy of the command word, and every response lets it go. -/
theorem exec_inFlight (i : Instr) (s : State) (held : Option Command) :
    exec i { s with inFlight := held } = exec i s := by
  cases i <;> rfl

theorem runCommand_inFlight (c : Command) (s : State) (held : Option Command) :
    runCommand c { s with inFlight := held } = runCommand c s := by
  unfold runCommand
  split
  · exact exec_inFlight _ s held
  · rfl

/-- Settles O19: the step runs the accepted command, and neither the run nor the held copy shows the reserved bits. -/
theorem reservedBitsChangeNothing : Obligations.ReservedBitsChangeNothing := by
  intro s c c' rest hs hcmd hd hiv
  have hop : opField c'.cmd = opField c.cmd := (extractLsb'_eq_of_and_eq hcmd rfl).symm
  have hmode : modeField c'.cmd = modeField c.cmd := (extractLsb'_eq_of_and_eq hcmd rfl).symm
  have hstep (d : Command) : step { s with port := .command d :: rest } = runCommand d { s with port := rest } :=
    (step_idle_command (s := { s with port := .command d :: rest }) hs rfl).trans
      (runCommand_inFlight d { s with port := rest } (some d))
  rw [hstep, hstep, runCommand_congr_reserved hop hmode (argsOf_eq_of_and_eq hcmd hd hiv)]

/-! ### Fields that an operation does not read -/

/-- In a mode that requires an IV, VALIDATE fails without one before IVLEN or the IV bus is read (42_block_modes.md
R110 step 4). -/
theorem blockCommand_without_iv {a : Args} (hivp : a.ivp = false) (m : CipherMode) (pre : EngineInput)
    (dir : Direction) (post : ResultSelect) (hm : m ≠ .ecb) (ivlen : BitVec 8) (iv : BitVec 64) (s : State) :
    blockCommand m pre dir post a s = blockCommand m pre dir post { a with ivlen := ivlen, iv := iv } s := by
  have hv : validate (some m) { a with ivlen := ivlen, iv := iv } s = validate (some m) a s := by
    simp [validate, ivSupplied, declaredLength, hivp]
  rcases blockCommand_cases m pre dir post a s with ⟨e, he, h⟩ | ⟨hn, -⟩
  · rw [h, blockCommand, hv, he]
  · obtain ⟨-, -, hneeds⟩ := (validate_eq_none_iff m a s).mp hn
    obtain ⟨htrue, -⟩ := hneeds hm
    rw [hivp] at htrue
    cases htrue

/-- Settles O20: no meaning of SETKEY, ENCIV, ECB and BADMODE reads the fields, and the other modes read IVLEN and
the IV bus only under IVP = 1. -/
theorem unreadFieldsAreIgnored : Obligations.UnreadFieldsAreIgnored := by
  intro a s m m' ivp ivlen iv
  refine ⟨rfl, rfl, rfl, rfl, fun _ _ => ⟨rfl, rfl⟩, fun m hivp => ?_⟩
  have hsame (m : CipherMode) (hm : m ≠ .ecb) (pre : EngineInput) (dir : Direction) (post : ResultSelect) :=
    congrArg (Host.Outcome.next (φ := Fault) (ρ := Refusal))
      (blockCommand_without_iv hivp m pre dir post hm ivlen iv s)
  cases m with
  | ecb => exact ⟨rfl, rfl⟩
  | cbc => exact ⟨hsame .cbc (by decide) _ _ _, hsame .cbc (by decide) _ _ _⟩
  | cfb => exact ⟨hsame .cfb (by decide) _ _ _, hsame .cfb (by decide) _ _ _⟩
  | ofb => exact ⟨hsame .ofb (by decide) _ _ _, hsame .ofb (by decide) _ _ _⟩

end Sys2Proof.Proofs
end

section
/-! PROOFS. Key setup (40_key_setup.md R80 to R82): what SETKEY does, that nothing else writes KEY, and that the core
reads KEY through its subkeys alone. -/

namespace Sys2Proof.Proofs

open Sys2Proof Sys2Proof.Machine Sys2Proof.Laws

/-! ### Commands that load no key -/

/-- An instruction that loads no key gives one response and leaves KEY and KEY_VALID alone. -/
theorem exec_answers {i : Instr} (hi : isSuccessfulSetkey i = false) (s : State) :
    ∃ r t, exec i s = .next t ∧ Answers r s t := by
  obtain ⟨r, hr⟩ := answersAlike hi s
  exact ⟨r, hr s (.refl s)⟩

/-- A command loads a key exactly when it is SETKEY with a declared length of 16 (40_key_setup.md R80). -/
theorem loadsKey_cases (c : Command) :
    (loadsKey c = true ∧ ∃ m a, a.dlen.toNat = 16 ∧ decode c = .ok (.setkey m a)) ∨
    (loadsKey c = false ∧ ∃ i, isSuccessfulSetkey i = false ∧ decode c = .ok i) ∨
    (loadsKey c = false ∧ ∃ e, decode c = .error e) := by
  unfold loadsKey
  cases hd : decode c with
  | error e => exact .inr (.inr ⟨rfl, e, rfl⟩)
  | ok i =>
    cases hi : isSuccessfulSetkey i with
    | false => exact .inr (.inl ⟨hi, i, hi, rfl⟩)
    | true =>
      cases i with
      | setkey m a => exact .inl ⟨hi, m, a, by simpa [isSuccessfulSetkey] using hi, rfl⟩
      | _ => cases hi

/-- A command that loads no key answers alike in all states with the same subkeys. -/
theorem runCommand_answersAlike {c : Command} (hc : loadsKey c = false) (s : State) :
    ∃ r, ∀ t, SameSubkeys s t → ∃ t', runCommand c t = .next t' ∧ Answers r t t' := by
  rcases loadsKey_cases c with ⟨htrue, -⟩ | ⟨-, i, hi, hd⟩ | ⟨-, e, hd⟩
  · cases hc.symm.trans htrue
  · simp only [runCommand, hd]
    exact answersAlike hi s
  · simp only [runCommand, hd]
    exact ⟨_, fun t _ => ⟨_, rfl, raiseError_answers .illegalCmd t⟩⟩

theorem runCommand_answers {c : Command} (hc : loadsKey c = false) (s : State) :
    ∃ r t, runCommand c s = .next t ∧ Answers r s t := by
  obtain ⟨r, hr⟩ := runCommand_answersAlike hc s
  exact ⟨r, hr s (.refl s)⟩

/-- A command that loads a key runs to the same response and the same key in every state. -/
theorem runCommand_loadsKey {c : Command} (hc : loadsKey c = true) :
    ∃ k, ∀ s, runCommand c s = .next (respond .keyLoaded (loadKey k s)) := by
  rcases loadsKey_cases c with ⟨-, m, a, hlen, hd⟩ | ⟨hfalse, -⟩ | ⟨hfalse, -⟩
  · exact ⟨keyOperand a, fun s => (runCommand_of_decode hd s).trans (execSetkey_of_length hlen s)⟩
  · cases hc.symm.trans hfalse
  · cases hc.symm.trans hfalse

/-! ### The frame of KEY along a run -/

/-- No successful SETKEY and no reset is at the port or in flight. -/
structure NoKeyInputs (s : State) : Prop where
  inFlight : ∀ c, s.inFlight = some c → loadsKey c = false
  port : ∀ x ∈ s.port, ∃ c, x = .command c ∧ loadsKey c = false

/-- KEY and KEY_VALID are as they were, and still no input is there that writes them. -/
structure KeepsKey (s t : State) : Prop where
  key : t.key = s.key
  keyValid : t.keyValid = s.keyValid
  inputs : NoKeyInputs t

theorem KeepsKey.refl {s : State} (hs : NoKeyInputs s) : KeepsKey s s := ⟨rfl, rfl, hs⟩

theorem KeepsKey.trans {s t u : State} (h : KeepsKey s t) (h' : KeepsKey t u) : KeepsKey s u :=
  ⟨h'.key.trans h.key, h'.keyValid.trans h.keyValid, h'.inputs⟩

/-- A command that loads no key runs to a state with the same key, when the rest of the port loads none either. -/
theorem runCommand_keepsKey {c : Command} {s : State} (hc : loadsKey c = false)
    (hp : ∀ x ∈ s.port, ∃ c, x = .command c ∧ loadsKey c = false) :
    ∃ t, runCommand c s = .next t ∧ KeepsKey s t := by
  obtain ⟨r, t, ht, -, hidle, hkey, hvalid, hport⟩ := runCommand_answers hc s
  have hnone := (idle_iff t).mp hidle
  exact ⟨t, ht, hkey, hvalid, fun d hd => (nomatch hnone.symm.trans hd), hport ▸ hp⟩

/-- Every step keeps the key: what it runs, held or just accepted, loads none, and no reset is at the port. -/
theorem step_keepsKey {s : State} (hs : NoKeyInputs s) : ∃ t, step s = .next t ∧ KeepsKey s t := by
  obtain ⟨hheld, hport⟩ := hs
  rcases step_cases s with ⟨rest, hp, -⟩ | ⟨c, hc, -, h⟩ | ⟨c, rest, -, hp, h⟩ | ⟨-, -, h⟩
  case inl =>
    obtain ⟨c, hreset, -⟩ := hport .reset (by simp [hp])
    cases hreset
  case inr.inl =>
    rw [h]
    exact runCommand_keepsKey (hheld c hc) hport
  case inr.inr.inl =>
    rw [hp, List.forall_mem_cons] at hport
    obtain ⟨⟨d, hd, hload⟩, hrest⟩ := hport
    cases hd
    obtain ⟨t, ht, hkey, hvalid, hinputs⟩ := runCommand_keepsKey (s := accept c rest s) hload hrest
    exact ⟨t, h.trans ht, hkey, hvalid, hinputs⟩
  case inr.inr.inr => exact ⟨s, h, .refl ⟨hheld, hport⟩⟩

theorem run_keepsKey (n : Nat) {s : State} (hs : NoKeyInputs s) :
    ∃ t, Host.Core.run Sys2Proof.core n s = .next t ∧ KeepsKey s t := by
  induction n generalizing s with
  | zero => exact ⟨s, rfl, .refl hs⟩
  | succ n ih =>
    obtain ⟨t, ht, hst⟩ := step_keepsKey hs
    obtain ⟨u, hu, htu⟩ := ih hst.inputs
    exact ⟨u, (run_succ n ht).trans hu, hst.trans htu⟩

/-- Settles O35: an answer leaves KEY and KEY_VALID alone, and so does a run, by induction over its steps. -/
theorem onlySetkeyWritesTheKey : Obligations.OnlySetkeyWritesTheKey := by
  refine ⟨fun i s t hi hst => ?_, fun n s t hheld hport hst => ?_⟩
  · obtain ⟨r, t', ht', hans⟩ := exec_answers hi s
    cases ht'.symm.trans hst
    exact ⟨hans.key, hans.keyValid⟩
  · obtain ⟨t', ht', hkeep⟩ := run_keepsKey n ⟨hheld, hport⟩
    cases ht'.symm.trans hst
    exact ⟨hkeep.key, hkeep.keyValid⟩

/-! ### What the core does not read -/

theorem sameSubkeys_of_indistinguishable {s t : State} (h : Indistinguishable s t) : SameSubkeys s t :=
  ⟨h.keyValid.symm, fun hk => (h.keyBytes hk).symm⟩

/-- One response to both states keeps them indistinguishable. -/
theorem indistinguishable_of_answers {r : Response} {s s' t t' : State} (h : Indistinguishable s t)
    (hs : Answers r s s') (ht : Answers r t t') : Indistinguishable s' t' where
  responses := by rw [hs.responses, ht.responses, h.responses]
  keyValid := by rw [hs.keyValid, ht.keyValid, h.keyValid]
  inFlight := by rw [(idle_iff s').mp hs.idle, (idle_iff t').mp ht.idle]
  port := by rw [hs.port, ht.port, h.port]
  keyBytes := by rw [hs.keyValid, hs.key, ht.key]; exact h.keyBytes

theorem accept_indistinguishable (c : Command) (rest : List HostInput) {s t : State} (h : Indistinguishable s t) :
    Indistinguishable (accept c rest s) (accept c rest t) :=
  ⟨h.responses, h.keyValid, rfl, rfl, h.keyBytes⟩

/-- The simulation step of a command that both states run: it loads the same key into both, or is answered alike. -/
theorem runCommand_simulates {c : Command} {s s' t : State} (h : Indistinguishable s t)
    (hs : runCommand c s = .next s') : ∃ t', runCommand c t = .next t' ∧ Indistinguishable s' t' := by
  cases hc : loadsKey c with
  | true =>
    obtain ⟨k, hk⟩ := runCommand_loadsKey hc
    cases (hk s).symm.trans hs
    exact ⟨_, hk t, by simp [h.responses], rfl, rfl, h.port, fun _ => rfl⟩
  | false =>
    obtain ⟨r, hr⟩ := runCommand_answersAlike hc s
    obtain ⟨u, hu, hans⟩ := hr s (.refl s)
    obtain ⟨t', ht', hant⟩ := hr t (sameSubkeys_of_indistinguishable h)
    cases hu.symm.trans hs
    exact ⟨t', ht', indistinguishable_of_answers h hans hant⟩

theorem step_of_no_input {s : State} (hi : s.inFlight = none) (hp : s.port = []) : step s = .next s := by
  simp only [step, hi, hp]

/-- Settles O40: both states have the same port and the same command in flight, so both take the same kind of step. -/
theorem unreadStateIsNeverObserved : Obligations.UnreadStateIsNeverObserved := by
  intro s t s' h hst
  rcases step_cases s with ⟨rest, hp, hs⟩ | ⟨c, hc, hp, hs⟩ | ⟨c, rest, hi, hp, hs⟩ | ⟨hi, hp, hs⟩ <;>
    rw [h.port] at hp
  case inl =>
    cases hs.symm.trans hst
    exact ⟨_, step_reset hp, h.responses, rfl, rfl, rfl, fun hk => nomatch hk⟩
  case inr.inl =>
    rw [step_busy (h.inFlight ▸ hc) hp]
    exact runCommand_simulates h (hs.symm.trans hst)
  case inr.inr.inl =>
    rw [step_idle_command ((idle_iff t).mpr (h.inFlight ▸ hi)) hp]
    exact runCommand_simulates (accept_indistinguishable c rest h) (hs.symm.trans hst)
  case inr.inr.inr =>
    cases hs.symm.trans hst
    exact ⟨t, step_of_no_input (h.inFlight ▸ hi) hp, h⟩

/-- The subkeys read the first four key bytes and no other (10_state.md R23). -/
theorem subkeys_eq_of_bytes {k k' : Key} (h : ∀ n : Fin 4, k[n] = k'[n]) : subkeys k = subkeys k' := by
  have h0 : k[0] = k'[0] := h 0
  have h1 : k[1] = k'[1] := h 1
  have h2 : k[2] = k'[2] := h 2
  have h3 : k[3] = k'[3] := h 3
  simp only [subkeys, h0, h1, h2, h3]

/-- Settles O41: the two keys have the same subkeys, so the instruction answers alike under both. -/
theorem keysAgreeingInFourBytesActAlike : Obligations.KeysAgreeingInFourBytesActAlike := by
  intro i s key hi hkey
  obtain ⟨r, hr⟩ := answersAlike hi s
  obtain ⟨t, ht, hans⟩ := hr s (.refl s)
  obtain ⟨u, hu, hanu⟩ := hr { s with key := key } ⟨rfl, fun _ => subkeys_eq_of_bytes hkey⟩
  exact ⟨r, t, u, ht, hans.responses, hu, hanu.responses⟩

/-! ### SETKEY -/

theorem answersError_of_raiseError {i : Instr} {s : State} {e : ErrorKind}
    (h : exec i s = .next (raiseError e s)) : AnswersError i s e :=
  ⟨_, h, raiseError_answers e s, rfl, rfl⟩

/-- OP = 1 is SETKEY and nothing else is (30_encoding.md R68). -/
theorem opField_eq_one_iff_decode_setkey (c : Command) :
    opField c.cmd = 0x1 ↔ ∃ m a, decode c = .ok (.setkey m a) :=
  ⟨fun h => ⟨_, _, decode_setkey h⟩, fun ⟨_, _, h⟩ => (hasFields_of_decode h).op.symm⟩

/-- Settles O30: the two branches on the declared length, neither of which reads MODE or an IV field. -/
theorem setkeyLoadsTheKey : Obligations.SetkeyLoadsTheKey := by
  refine ⟨fun m a s hlen => ?_, fun m a s hlen => ?_, ⟨rfl, rfl⟩, fun _ _ _ _ _ _ _ => rfl,
    opField_eq_one_iff_decode_setkey, by decide, by decide⟩
  · exact ⟨_, execSetkey_of_length hlen s, fun i => by simp [keyOperand], by simp, by simp, rfl, rfl, by simp [Idle],
      by simp, by simp, by simp⟩
  · exact answersError_of_raiseError (execSetkey_of_length_ne hlen s)

end Sys2Proof.Proofs
end

section
/-! PROOFS. The core transform (41_core_transform.md R90 to R100): MIX as exact arithmetic, the sum schedule, the
sequencer, TEA_E and TEA_D as inverses, and ENCIV. -/

namespace Sys2Proof.Proofs

open Sys2Proof Sys2Proof.Machine Sys2Proof.Laws

/-! ### MIX -/

/-- A left shift and an addition, reduced once: the bits that the shift loses are multiples of the modulus. -/
theorem toNat_shiftLeft_add (v k : Word) (n : Nat) :
    (v <<< n + k).toNat = (v.toNat * 2 ^ n + k.toNat) % 2 ^ 32 := by
  rw [BitVec.toNat_add, BitVec.toNat_shiftLeft, Nat.shiftLeft_eq, Nat.mod_add_mod]

theorem toNat_ushiftRight_add (v k : Word) (n : Nat) :
    (v >>> n + k).toNat = (v.toNat / 2 ^ n + k.toNat) % 2 ^ 32 := by
  rw [BitVec.toNat_add, BitVec.toNat_ushiftRight, Nat.shiftRight_eq_div_pow]

/-- Settles O26: each of the three terms may be reduced at the end, because XOR works bit by bit. -/
theorem mixIsExactArithmetic : Obligations.MixIsExactArithmetic := by
  intro v s ka kb
  rw [mix, BitVec.toNat_xor, BitVec.toNat_xor, toNat_shiftLeft_add, BitVec.toNat_add, toNat_ushiftRight_add,
    Nat.xor_mod_two_pow, Nat.xor_mod_two_pow]

/-! ### The sum schedule -/

theorem ofNat_succ_mul_delta (n : Nat) :
    BitVec.ofNat 32 (n + 1) * delta = BitVec.ofNat 32 n * delta + delta := by
  rw [BitVec.ofNat_add, add_mul]
  exact congrArg _ (one_mul delta)

/-- Each forward round adds DELTA to the sum, whatever the key and the data are. -/
theorem iterateRounds_roundE_sum (k : Subkeys) (n : Nat) (t : Word × Word × Word) :
    (iterateRounds (roundE k) n t).2.2 = t.2.2 + BitVec.ofNat 32 n * delta := by
  induction n with
  | zero => simp [iterateRounds]
  | succ n ih => rw [iterateRounds_succ_last, roundE_sum, ih, ofNat_succ_mul_delta, add_assoc]

/-- Each backward round takes DELTA off the sum. -/
theorem iterateRounds_roundD_sum (k : Subkeys) (n : Nat) (t : Word × Word × Word) :
    (iterateRounds (roundD k) n t).2.2 = t.2.2 - BitVec.ofNat 32 n * delta := by
  induction n with
  | zero => simp [iterateRounds]
  | succ n ih => rw [iterateRounds_succ_last, roundD_sum, ih, ofNat_succ_mul_delta, sub_sub]

theorem dsum0_eq_mul_delta : dsum0 = BitVec.ofNat 32 32 * delta := by decide

/-- DSUM0 is 32 times DELTA, so `n` steps down from it are `32 - n` steps up from 0 (41_core_transform.md R100). -/
theorem dsum0_sub_mul_delta {m n : Nat} (h : m + n = 32) :
    dsum0 - BitVec.ofNat 32 n * delta = BitVec.ofNat 32 m * delta := by
  have hdsum0 : dsum0 = BitVec.ofNat 32 (m + n) * delta := by rw [h, dsum0_eq_mul_delta]
  rw [hdsum0, BitVec.ofNat_add, add_mul, add_sub_cancel_right]

/-- The forward sum ends where the backward one starts. -/
theorem iterateRounds_roundE_sum_end (k : Subkeys) (v0 v1 : Word) :
    (iterateRounds (roundE k) 32 (v0, v1, 0)).2.2 = dsum0 := by
  rw [iterateRounds_roundE_sum, ← dsum0_eq_mul_delta]
  exact zero_add dsum0

/-- The backward sum ends where the forward one starts. -/
theorem iterateRounds_roundD_sum_end (k : Subkeys) (v0 v1 : Word) :
    (iterateRounds (roundD k) 32 (v0, v1, dsum0)).2.2 = 0 := by
  rw [iterateRounds_roundD_sum, ← dsum0_eq_mul_delta]
  exact sub_self dsum0

/-- Settles O27: the sum goes up by DELTA from 0 and down by DELTA from DSUM0 = 32 * DELTA. -/
theorem sumSchedule : Obligations.SumSchedule := by
  refine ⟨fun k v0 v1 r _ => ?_, fun k v0 v1 r _ _ => ?_, by decide⟩
  · rw [iterateRounds_roundE_sum]
    exact zero_add _
  · rw [iterateRounds_roundD_sum]
    exact dsum0_sub_mul_delta (by omega)

/-! ### The sequencer -/

theorem engineRun_eq_engineTicks (dir : Direction) (k : Subkeys) (b : Block) :
    engineRun dir k b = engineTicks dir k 32 (engineLoad dir b) := by
  unfold engineRun
  rfl

/-- Ticks after the 32nd change nothing (41_core_transform.md R99). -/
theorem engineTicks_engineLoad {n : Nat} (hn : 32 ≤ n) (dir : Direction) (k : Subkeys) (b : Block) :
    engineTicks dir k n (engineLoad dir b) = engineRun dir k b := by
  obtain ⟨m, rfl⟩ := Nat.exists_eq_add_of_le hn
  obtain ⟨-, hrnd⟩ := engineRun_spec dir k b
  rw [engineTicks_add, ← engineRun_eq_engineTicks, engineTicks_stopped dir k m _ hrnd]

/-- SUM after a whole transform is the sum of its last round. -/
theorem engineRun_sum (dir : Direction) (k : Subkeys) (b : Block) :
    (engineRun dir k b).sum =
      (iterateRounds (roundOf dir k) 32 ((unpack b).1, (unpack b).2, startSum dir)).2.2 := by
  obtain ⟨hregs, -⟩ := engineRun_spec dir k b
  rw [← hregs]

/-- Settles O28: after 32 or more ticks the registers are those of a whole transform. -/
theorem sequencerComputesTheTransform : Obligations.SequencerComputesTheTransform := by
  intro k b n hn
  rw [engineTicks_engineLoad hn, engineTicks_engineLoad hn]
  exact ⟨engineOutput_engineRun_encrypt k b,
    (engineRun_sum .encrypt k b).trans (iterateRounds_roundE_sum_end k _ _),
    (engineRun_spec .encrypt k b).2,
    engineOutput_engineRun_decrypt k b,
    (engineRun_sum .decrypt k b).trans (iterateRounds_roundD_sum_end k _ _),
    (engineRun_spec .decrypt k b).2⟩

/-! ### TEA_E and TEA_D are inverse -/

/-- A backward round takes off what the forward round added, in the opposite order. -/
theorem roundD_roundE (k : Subkeys) (t : Word × Word × Word) : roundD k (roundE k t) = t := by
  simp only [roundD, roundE, add_sub_cancel_right]

theorem roundE_roundD (k : Subkeys) (t : Word × Word × Word) : roundE k (roundD k t) = t := by
  simp only [roundD, roundE, sub_add_cancel]

/-- Rounds that undo one another do so when iterated: the last of the first rounds meets the first of the others. -/
theorem iterateRounds_leftInverse {f g : Word × Word × Word → Word × Word × Word}
    (h : Function.LeftInverse g f) (n : Nat) :
    Function.LeftInverse (iterateRounds g n) (iterateRounds f n) := by
  intro t
  induction n with
  | zero => rfl
  | succ n ih => rw [iterateRounds_succ_last f, iterateRounds, h, ih]

/-- 32 forward rounds on a block end with the words of TEA_E and DSUM0, where decrypting starts. -/
theorem iterateRounds_roundE_block (k : Subkeys) (b : Block) :
    iterateRounds (roundE k) 32 ((unpack b).1, (unpack b).2, 0) =
      ((unpack (teaE k b)).1, (unpack (teaE k b)).2, dsum0) := by
  rw [teaE, unpack_pack, rounds, ← iterateRounds_roundE_sum_end k]

/-- 32 backward rounds on a block end with the words of TEA_D and 0, where encrypting starts. -/
theorem iterateRounds_roundD_block (k : Subkeys) (b : Block) :
    iterateRounds (roundD k) 32 ((unpack b).1, (unpack b).2, dsum0) =
      ((unpack (teaD k b)).1, (unpack (teaD k b)).2, 0) := by
  rw [teaD, unpack_pack, rounds, ← iterateRounds_roundD_sum_end k]

theorem teaD_teaE (k : Subkeys) (b : Block) : teaD k (teaE k b) = b := by
  rw [teaD, rounds, ← iterateRounds_roundE_block, iterateRounds_leftInverse (roundD_roundE k), pack_unpack]

theorem teaE_teaD (k : Subkeys) (b : Block) : teaE k (teaD k b) = b := by
  rw [teaE, rounds, ← iterateRounds_roundD_block, iterateRounds_leftInverse (roundE_roundD k), pack_unpack]

/-- Settles O29: 32 rounds are undone by 32 rounds of the other direction, and each transform starts from the sum that
the other ends with. -/
theorem transformsAreInverse : Obligations.TransformsAreInverse :=
  ⟨fun k t => ⟨roundD_roundE k t, roundE_roundD k t⟩, iterateRounds_roundE_sum_end,
    fun key b => ⟨teaD_teaE (subkeys key) b, teaE_teaD (subkeys key) b⟩⟩

/-! ### ENCIV -/

theorem answersBlock_of_transformAndAnswer {i : Instr} {s : State} {dir : Direction} {b : Block}
    {post : Block → Block} (h : exec i s = .next (transformAndAnswer dir b post s)) :
    AnswersBlock i s (post (engineOutput (engineRun dir (subkeys s.key) b))) :=
  ⟨_, h, transformAndAnswer_answers dir b post s⟩

/-- Under a loaded key and with valid operands a block command runs the engine. -/
theorem blockCommand_of_operandsValid {m : CipherMode} {a : Args} {s : State} (hk : s.keyValid = true)
    (hv : OperandsValid m a) (pre : EngineInput) (dir : Direction) (post : ResultSelect) :
    blockCommand m pre dir post a s = transformAndAnswer dir (preProcess pre (blockOperand a) (ivOperand a))
      (postProcess post (blockOperand a) (ivOperand a)) s := by
  rw [blockCommand, (validate_eq_none_iff_operandsValid m a s).mpr ⟨hk, hv⟩]

/-- ECB asks for no IV. -/
theorem operandsValid_ecb {a : Args} (hd : a.dlen.toNat = 8) : OperandsValid .ecb a :=
  ⟨hd, fun h => absurd rfl h⟩

theorem enciv_answersBlock {a : Args} {s : State} (hk : s.keyValid = true) (hd : a.dlen.toNat = 8) (mode : BitVec 4) :
    AnswersBlock (.enciv mode a) s (teaE (subkeys s.key) (blockOperand a)) := by
  rw [← engineOutput_engineRun_encrypt]
  exact answersBlock_of_transformAndAnswer (post := fun out => out) (execEnciv_of_length hk hd)

theorem encEcb_answersBlock {a : Args} {s : State} (hk : s.keyValid = true) (hd : a.dlen.toNat = 8) :
    AnswersBlock (.encEcb a) s (teaE (subkeys s.key) (blockOperand a)) := by
  have hexec : exec (.encEcb a) s = .next (transformAndAnswer .encrypt (blockOperand a) (fun out => out) s) :=
    congrArg Host.Outcome.next (blockCommand_of_operandsValid hk (operandsValid_ecb hd) .block .encrypt .engine)
  rw [← engineOutput_engineRun_encrypt]
  exact answersBlock_of_transformAndAnswer hexec

/-- OP = 4 is ENCIV and nothing else is (30_encoding.md R68). -/
theorem opField_eq_four_iff_decode_enciv (c : Command) :
    opField c.cmd = 0x4 ↔ ∃ m a, decode c = .ok (.enciv m a) :=
  ⟨fun h => ⟨_, _, decode_enciv h⟩, fun ⟨_, _, h⟩ => (hasFields_of_decode h).op.symm⟩

/-- Settles O31: the three branches of ENCIV, none of which reads MODE or an IV field, and the ECB row of the control
table, which XORs nothing either. -/
theorem encivAnswersTheRawTransform : Obligations.EncivAnswersTheRawTransform :=
  ⟨fun m _ _ hk hd => ⟨enciv_answersBlock hk hd m, encEcb_answersBlock hk hd⟩,
    fun _ a _ hk => answersError_of_raiseError (execEnciv_of_not_valid hk a),
    fun _ _ _ hk hd => answersError_of_raiseError (execEnciv_of_length_ne hk hd),
    fun _ _ _ _ _ _ _ => rfl, opField_eq_four_iff_decode_enciv, by decide⟩

end Sys2Proof.Proofs
end

section
/-! PROOFS. The block modes (42_block_modes.md R110 to R125): the checks in their order, the control table, and what
follows from it by the algebra of XOR and TEA_E with TEA_D. -/

namespace Sys2Proof.Proofs

open Sys2Proof Sys2Proof.Machine Sys2Proof.Laws

/-! ### XOR of blocks -/

theorem xorBlock_assoc (a b c : Block) : xorBlock (xorBlock a b) c = xorBlock a (xorBlock b c) :=
  Vector.ext fun i hi => by simp only [getElem_xorBlock, BitVec.xor_assoc]

theorem xorBlock_xorBlock_cancel_left (a b : Block) : xorBlock a (xorBlock a b) = b := by
  ext i hi
  simp

theorem xorBlock_xorBlock_cancel_right (a b : Block) : xorBlock (xorBlock a b) b = a := by
  rw [xorBlock_comm, xorBlock_comm a b, xorBlock_xorBlock_cancel_left]

/-- A pad common to both blocks cancels. -/
theorem xorBlock_xorBlock_common_left (p a b : Block) :
    xorBlock (xorBlock p a) (xorBlock p b) = xorBlock a b := by
  rw [xorBlock_comm p a, xorBlock_assoc, xorBlock_xorBlock_cancel_left]

@[simp] theorem getElem_zeroBlock (i : Nat) (hi : i < 8) : zeroBlock[i] = 0 := by
  have hzero : zeroBlock = Vector.replicate 8 0 := rfl
  simp only [hzero, Vector.getElem_replicate]

theorem xorBlock_zeroBlock (a : Block) : xorBlock a zeroBlock = a := by
  ext i hi
  simp

/-! ### VALIDATE, check by check (R110) -/

theorem validate_of_length_ne {s : State} {a : Args} (hk : s.keyValid = true) (hd : a.dlen.toNat ≠ 8)
    (mode : Option CipherMode) : validate mode a s = some .invalidBlock := by
  simp [validate, declaredLength, hk, hd]

theorem validate_of_no_variant {s : State} {a : Args} (hk : s.keyValid = true) (hd : a.dlen.toNat = 8) :
    validate none a s = some .invalidMode := by
  simp [validate, declaredLength, hk, hd]

theorem requiresIv_of_ne_ecb {m : CipherMode} (hm : m ≠ .ecb) : requiresIv m = true := by
  cases m with
  | ecb => exact absurd rfl hm
  | cbc => rfl
  | cfb => rfl
  | ofb => rfl

theorem validate_of_no_iv {s : State} {a : Args} {m : CipherMode} (hk : s.keyValid = true)
    (hd : a.dlen.toNat = 8) (hm : m ≠ .ecb) (hiv : a.ivp = false ∨ a.ivlen.toNat ≠ 8) :
    validate (some m) a s = some .invalidIv := by
  have hnone : ivSupplied a = false := by
    rcases hiv with h | h <;> simp [ivSupplied, h]
  simp [validate, declaredLength, hk, hd, requiresIv_of_ne_ecb hm, hnone]

/-! ### The block commands as rows of the control table -/

/-- Each block command in a mode variant is one row of the control table on its own fields (R111, R112). -/
theorem exec_of_blockModeOf {i : Instr} {m : CipherMode} (hi : blockModeOf i = some m) :
    ∃ pre dir post, ∀ s, exec i s = .next (blockCommand m pre dir post i.args s) := by
  cases i with
  | setkey mode a => cases hi
  | enciv mode a => cases hi
  | encBadmode mode a => cases hi
  | decBadmode mode a => cases hi
  | encEcb a => cases hi; exact ⟨_, _, _, fun _ => rfl⟩
  | encCbc a => cases hi; exact ⟨_, _, _, fun _ => rfl⟩
  | encCfb a => cases hi; exact ⟨_, _, _, fun _ => rfl⟩
  | encOfb a => cases hi; exact ⟨_, _, _, fun _ => rfl⟩
  | decEcb a => cases hi; exact ⟨_, _, _, fun _ => rfl⟩
  | decCbc a => cases hi; exact ⟨_, _, _, fun _ => rfl⟩
  | decCfb a => cases hi; exact ⟨_, _, _, fun _ => rfl⟩
  | decOfb a => cases hi; exact ⟨_, _, _, fun _ => rfl⟩

/-- A block command raises what VALIDATE finds. -/
theorem answersError_of_blockModeOf {i : Instr} {m : CipherMode} {s : State} {e : ErrorKind}
    (hi : blockModeOf i = some m) (hv : validate (some m) i.args s = some e) : AnswersError i s e := by
  obtain ⟨pre, dir, post, hexec⟩ := exec_of_blockModeOf hi
  exact answersError_of_raiseError (by rw [hexec, blockCommand, hv])

/-- What a row of the control table answers on valid operands, given what it computes. -/
theorem answersBlock_of_blockCommand {i : Instr} {m : CipherMode} {pre : EngineInput} {dir : Direction}
    {post : ResultSelect} {a : Args} {s : State} {b : Block}
    (h : exec i s = .next (blockCommand m pre dir post a s)) (hk : s.keyValid = true) (hv : OperandsValid m a)
    (hb : postProcess post (blockOperand a) (ivOperand a) (engineOutput (engineRun dir (subkeys s.key)
      (preProcess pre (blockOperand a) (ivOperand a)))) = b) : AnswersBlock i s b :=
  hb ▸ answersBlock_of_transformAndAnswer
    (h.trans (congrArg _ (blockCommand_of_operandsValid hk hv pre dir post)))

/-- The result of ENC in mode `m` on a block and an IV, as the control table gives it (R112). -/
def encryptBlock (m : CipherMode) (k : Subkeys) (b iv : Block) : Block :=
  match m with
  | .ecb => teaE k b
  | .cbc => teaE k (xorBlock b iv)
  | .cfb => xorBlock (teaE k iv) b
  | .ofb => xorBlock (teaE k iv) b

/-- The result of DEC in mode `m` on a block and an IV; the feedback modes run the engine forward here too (R112). -/
def decryptBlock (m : CipherMode) (k : Subkeys) (b iv : Block) : Block :=
  match m with
  | .ecb => teaD k b
  | .cbc => xorBlock (teaD k b) iv
  | .cfb => xorBlock (teaE k iv) b
  | .ofb => xorBlock (teaE k iv) b

theorem encIn_answersBlock {m : CipherMode} {a : Args} {s : State} (hk : s.keyValid = true)
    (hv : OperandsValid m a) :
    AnswersBlock (encIn m a) s (encryptBlock m (subkeys s.key) (blockOperand a) (ivOperand a)) := by
  cases m with
  | ecb => exact answersBlock_of_blockCommand rfl hk hv (by rw [engineOutput_engineRun_encrypt]; rfl)
  | cbc => exact answersBlock_of_blockCommand rfl hk hv (by rw [engineOutput_engineRun_encrypt]; rfl)
  | cfb => exact answersBlock_of_blockCommand rfl hk hv (by rw [engineOutput_engineRun_encrypt]; rfl)
  | ofb => exact answersBlock_of_blockCommand rfl hk hv (by rw [engineOutput_engineRun_encrypt]; rfl)

theorem decIn_answersBlock {m : CipherMode} {a : Args} {s : State} (hk : s.keyValid = true)
    (hv : OperandsValid m a) :
    AnswersBlock (decIn m a) s (decryptBlock m (subkeys s.key) (blockOperand a) (ivOperand a)) := by
  cases m with
  | ecb => exact answersBlock_of_blockCommand rfl hk hv (by rw [engineOutput_engineRun_decrypt]; rfl)
  | cbc => exact answersBlock_of_blockCommand rfl hk hv (by rw [engineOutput_engineRun_decrypt]; rfl)
  | cfb => exact answersBlock_of_blockCommand rfl hk hv (by rw [engineOutput_engineRun_encrypt]; rfl)
  | ofb => exact answersBlock_of_blockCommand rfl hk hv (by rw [engineOutput_engineRun_encrypt]; rfl)

/-- Settles O32: each command is its row of the control table, and the engine computes TEA_E or TEA_D. -/
theorem blockCommandsFollowTheControlTable : Obligations.BlockCommandsFollowTheControlTable :=
  fun _ _ hk =>
    ⟨fun hv => ⟨encIn_answersBlock hk hv, decIn_answersBlock hk hv⟩,
      fun hv => ⟨encIn_answersBlock hk hv, decIn_answersBlock hk hv⟩,
      fun hv => ⟨encIn_answersBlock hk hv, decIn_answersBlock hk hv⟩,
      fun hv => ⟨encIn_answersBlock hk hv, decIn_answersBlock hk hv⟩⟩

/-! ### A mode code that is no variant (R121) -/

theorem answersError_of_badMode {i : Instr} {mode : BitVec 4} {a : Args} {s : State} {e : ErrorKind}
    (hi : i ∈ [Instr.encBadmode mode a, Instr.decBadmode mode a]) (hv : validate none a s = some e) :
    AnswersError i s e := by
  have hraise : badModeCommand a s = raiseError e s := by rw [badModeCommand, hv]
  rw [List.mem_pair] at hi
  rcases hi with rfl | rfl
  · exact answersError_of_raiseError (congrArg _ hraise)
  · exact answersError_of_raiseError (congrArg _ hraise)

/-- The three checks in their order; the IV is not among them. -/
theorem badMode_answersError {i : Instr} {mode : BitVec 4} {a : Args} (s : State)
    (hi : i ∈ [Instr.encBadmode mode a, Instr.decBadmode mode a]) :
    (s.keyValid = false → AnswersError i s .noKey) ∧
    (s.keyValid = true → a.dlen.toNat ≠ 8 → AnswersError i s .invalidBlock) ∧
    (s.keyValid = true → a.dlen.toNat = 8 → AnswersError i s .invalidMode) :=
  ⟨fun hk => answersError_of_badMode hi (validate_of_not_valid hk none a),
    fun hk hd => answersError_of_badMode hi (validate_of_length_ne hk hd none),
    fun hk hd => answersError_of_badMode hi (validate_of_no_variant hk hd)⟩

/-- Settles O34: VALIDATE never passes such a code, and the decoder finds no variant for it. -/
theorem badModeAnswers : Obligations.BadModeAnswers := by
  refine ⟨fun m a s _ i hi => badMode_answersError s hi, fun c hm => ?_, by decide, by decide⟩
  have hnone : modeOfCode (modeField c.cmd) = none := (modeOfCode_eq_none_iff _).mpr hm
  exact ⟨fun hop => by rw [decode_enc hop, decodeEnc_of_no_variant hnone],
    fun hop => by rw [decode_dec hop, decodeDec_of_no_variant hnone]⟩

/-! ### The order of the checks (R110) -/

/-- A block command whose checks all pass answers with a block. -/
theorem exists_answersBlock_of_blockModeOf {i : Instr} {m : CipherMode} {s : State}
    (hi : blockModeOf i = some m) (hk : s.keyValid = true) (hv : OperandsValid m i.args) :
    ∃ b, AnswersBlock i s b := by
  obtain ⟨pre, dir, post, hexec⟩ := exec_of_blockModeOf hi
  exact ⟨_, answersBlock_of_blockCommand (hexec s) hk hv rfl⟩

/-- Settles O33: each clause is the check of VALIDATE that fails first, or that none fails; the ECB rows hand no IV to
the engine. -/
theorem validationOrder : Obligations.ValidationOrder := by
  refine ⟨fun i m s hi => ⟨fun hk => ?_, fun hk hd => ?_, fun hk hd hm hiv => ?_, fun hk hd hiv => ?_⟩,
    fun code a s _ i hi => badMode_answersError s hi, fun _ _ _ _ _ => ⟨rfl, rfl⟩, fun _ => rfl⟩
  · exact answersError_of_blockModeOf hi (validate_of_not_valid hk _ _)
  · exact answersError_of_blockModeOf hi (validate_of_length_ne hk hd _)
  · exact answersError_of_blockModeOf hi (validate_of_no_iv hk hd hm hiv)
  · exact exists_answersBlock_of_blockModeOf hi hk ⟨hd, hiv.resolve_left⟩

/-! ### Round trips (R122) -/

theorem answersBlock_unique {i : Instr} {s : State} {b b' : Block} (h : AnswersBlock i s b)
    (h' : AnswersBlock i s b') : b = b' := by
  obtain ⟨t, ht, hans⟩ := h
  obtain ⟨t', ht', hans'⟩ := h'
  cases ht.symm.trans ht'
  have hresp := hans.responses.symm.trans hans'.responses
  simpa using hresp

/-- DEC undoes ENC: in the feedback modes the pad cancels, in CBC first the transform and then the IV. ECB reads no
IV, so there the two may differ. -/
theorem decryptBlock_encryptBlock {m : CipherMode} {iv iv' : Block} (hiv : m ≠ .ecb → iv' = iv) (k : Subkeys)
    (b : Block) : decryptBlock m k (encryptBlock m k b iv) iv' = b := by
  cases m with
  | ecb => exact teaD_teaE k b
  | cbc => rw [hiv (by decide), decryptBlock, encryptBlock, teaD_teaE, xorBlock_xorBlock_cancel_right]
  | cfb => rw [hiv (by decide), decryptBlock, encryptBlock, xorBlock_xorBlock_cancel_left]
  | ofb => rw [hiv (by decide), decryptBlock, encryptBlock, xorBlock_xorBlock_cancel_left]

theorem encryptBlock_decryptBlock {m : CipherMode} {iv iv' : Block} (hiv : m ≠ .ecb → iv' = iv) (k : Subkeys)
    (b : Block) : encryptBlock m k (decryptBlock m k b iv) iv' = b := by
  cases m with
  | ecb => exact teaE_teaD k b
  | cbc => rw [hiv (by decide), encryptBlock, decryptBlock, xorBlock_xorBlock_cancel_right, teaE_teaD]
  | cfb => rw [hiv (by decide), encryptBlock, decryptBlock, xorBlock_xorBlock_cancel_left]
  | ofb => rw [hiv (by decide), encryptBlock, decryptBlock, xorBlock_xorBlock_cancel_left]

/-- Settles O36: the first answer is the control table's, and the second command's result undoes it. -/
theorem roundTripInEveryMode : Obligations.RoundTripInEveryMode := by
  intro m a a' s u c hk hk' hkey hv hv' hiv hc
  constructor
  · intro henc
    have hdec := decIn_answersBlock hk' hv'
    rwa [hkey, hc, answersBlock_unique henc (encIn_answersBlock hk hv), decryptBlock_encryptBlock hiv] at hdec
  · intro hdec
    have henc := encIn_answersBlock hk' hv'
    rwa [hkey, hc, answersBlock_unique hdec (decIn_answersBlock hk hv), encryptBlock_decryptBlock hiv] at henc

/-! ### The feedback modes (R123) -/

/-- Operands that a mode with an IV accepts are accepted in every mode. -/
theorem operandsValid_of_ne_ecb {m : CipherMode} {a : Args} (hm : m ≠ .ecb) (hv : OperandsValid m a)
    (m' : CipherMode) : OperandsValid m' a :=
  ⟨hv.block, fun _ => hv.iv hm⟩

/-- The four feedback commands run one row of the control table. -/
theorem feedback_answersBlock {i : Instr} {a : Args} {s : State} (hk : s.keyValid = true)
    (hv : OperandsValid .cfb a) (hi : i ∈ [Instr.encCfb a, Instr.encOfb a, Instr.decCfb a, Instr.decOfb a]) :
    AnswersBlock i s (xorBlock (blockOperand a) (teaE (subkeys s.key) (ivOperand a))) := by
  have hofb : OperandsValid .ofb a := operandsValid_of_ne_ecb (by decide) hv .ofb
  rw [xorBlock_comm]
  simp only [List.mem_cons, List.not_mem_nil, or_false] at hi
  rcases hi with rfl | rfl | rfl | rfl
  · exact encIn_answersBlock hk hv
  · exact encIn_answersBlock hk hofb
  · exact decIn_answersBlock hk hv
  · exact decIn_answersBlock hk hofb

/-- Settles O37: all four answer `block XOR TEA_E(iv)`, which names neither the command nor the rest of the state. -/
theorem cfbAndOfbCoincide : Obligations.CfbAndOfbCoincide := by
  intro a a' s u hk hk' hkey hv hv' hb hiv i hi j hj
  have hj' := feedback_answersBlock hk' hv' hj
  rw [hkey, hb, hiv] at hj'
  exact ⟨feedback_answersBlock hk hv hi, hj'⟩

/-! ### Identities between the modes (R125) -/

/-- CBC under a zero IV answers as ECB, in both directions. -/
theorem cbc_zero_iv_answers_as_ecb {a : Args} {s : State} (hk : s.keyValid = true) (hv : OperandsValid .cbc a)
    (hiv : ivOperand a = zeroBlock) :
    (∃ b, AnswersBlock (.encCbc a) s b ∧ AnswersBlock (.encEcb a) s b) ∧
    (∃ b, AnswersBlock (.decCbc a) s b ∧ AnswersBlock (.decEcb a) s b) := by
  obtain ⟨hecb, hcbc, -, -⟩ := blockCommandsFollowTheControlTable a s hk
  obtain ⟨henc, hdec⟩ := hcbc hv
  obtain ⟨henc', hdec'⟩ := hecb (operandsValid_ecb hv.block)
  rw [hiv, xorBlock_zeroBlock] at henc hdec
  exact ⟨⟨_, henc, henc'⟩, ⟨_, hdec, hdec'⟩⟩

theorem encCfb_answersBlock {a : Args} {s : State} (hk : s.keyValid = true) (hv : OperandsValid .cfb a) :
    AnswersBlock (.encCfb a) s (xorBlock (teaE (subkeys s.key) (ivOperand a)) (blockOperand a)) :=
  encIn_answersBlock hk hv

theorem encCbc_answersBlock {a : Args} {s : State} (hk : s.keyValid = true) (hv : OperandsValid .cbc a) :
    AnswersBlock (.encCbc a) s (teaE (subkeys s.key) (xorBlock (blockOperand a) (ivOperand a))) :=
  encIn_answersBlock hk hv

/-- Settles O38: (a) a zero IV and (b) a zero block drop out of the XOR, (c) the pad of one IV cancels, and (d) the
engine input of ENC.CBC is the XOR itself. -/
theorem modeIdentities : Obligations.ModeIdentities := by
  refine ⟨fun a s hk hv hiv => cbc_zero_iv_answers_as_ecb hk hv hiv, fun a a' m s hk hv hd hzero hblock => ?_,
    fun a a' s hk hv hv' hiv => ?_, fun a a' s hk hv hv' hxor => ?_⟩
  · have hcfb := encCfb_answersBlock hk hv
    rw [hzero, xorBlock_zeroBlock, ← hblock] at hcfb
    exact ⟨_, hcfb, enciv_answersBlock hk hd m, encEcb_answersBlock hk hd⟩
  · exact ⟨_, _, encCfb_answersBlock hk hv, encCfb_answersBlock hk hv',
      by rw [hiv, xorBlock_xorBlock_common_left]⟩
  · have hcbc := encCbc_answersBlock hk hv
    rw [hxor] at hcbc
    exact ⟨_, hcbc, encCbc_answersBlock hk hv'⟩

end Sys2Proof.Proofs
end

section
/-! PROOFS. Errors (60_exceptions.md): no step stops the core, each error has its causes, and an error leaves no trace
but its response. -/

namespace Sys2Proof.Proofs

open Sys2Proof Sys2Proof.Machine Sys2Proof.Laws

/-- Settles O11: a reset and a step without input have a next state, and every command runs to its response. -/
theorem everyStepAnswersNext : Obligations.EveryStepAnswersNext := by
  intro s
  rcases step_cases s with ⟨rest, -, h⟩ | ⟨c, -, -, h⟩ | ⟨c, rest, -, -, h⟩ | ⟨-, -, h⟩
  · exact ⟨_, h⟩
  · obtain ⟨t, ht, -⟩ := runCommand_runTo c s
    exact ⟨t, h.trans ht⟩
  · obtain ⟨t, ht, -⟩ := runCommand_runTo c (accept c rest s)
    exact ⟨t, h.trans ht⟩
  · exact ⟨_, h⟩

/-! ### The effect of an error (R149) -/

/-- What running a command can do: raise an error, load a key, or run the engine once. -/
theorem runCommand_cases (c : Command) (s : State) :
    (∃ e, runCommand c s = .next (raiseError e s)) ∨
    (∃ k, runCommand c s = .next (respond .keyLoaded (loadKey k s))) ∨
    (∃ dir b post, runCommand c s = .next (transformAndAnswer dir b post s)) := by
  cases hd : decode c with
  | error e => exact .inl ⟨.illegalCmd, by simp only [runCommand, hd, answerIllegal]⟩
  | ok i =>
    rw [runCommand_of_decode hd]
    rcases exec_cases i s with ⟨e, h⟩ | ⟨m, a, -, -, h⟩ | ⟨dir, b, post, -, h⟩
    · exact .inl ⟨e, h⟩
    · exact .inr (.inl ⟨_, h⟩)
    · exact .inr (.inr ⟨dir, b, post, h⟩)

/-- Only raising an error answers an error, so a command that answers one does nothing else. -/
theorem runCommand_of_answerTo_error {c : Command} {s : State} {e : ErrorKind}
    (he : answerTo (loadedKey s) c = .error e) : runCommand c s = .next (raiseError e s) := by
  obtain ⟨t, ht, hrun⟩ := runCommand_runTo c s
  have hresp : t.responses = s.responses ++ [.error e] := he ▸ hrun.responses
  rcases runCommand_cases c s with ⟨e', h⟩ | ⟨k, h⟩ | ⟨dir, b, post, h⟩ <;> cases h.symm.trans ht
  · cases List.append_cancel_left hresp
    exact h
  · cases List.append_cancel_left hresp
  · cases List.append_cancel_left hresp

section
variable {s t : State} {c : Command} {rest : List HostInput}

/-- The step on a command that answers an error. -/
theorem step_of_answerTo_error {e : ErrorKind} (hs : Idle s) (hp : s.port = .command c :: rest)
    (he : answerTo (loadedKey s) c = .error e) :
    step s = .next { s with port := rest, responses := s.responses ++ [.error e] } := by
  rw [step_idle_command hs hp, runCommand_of_answerTo_error (s := accept c rest s) he, raiseError,
    respond_accept _ _ _ _ ((idle_iff s).mp hs)]

/-- The response seen after the step on a command is its answer. -/
theorem answerTo_of_step {r : Response} (hs : Idle s) (hp : s.port = .command c :: rest) (hst : step s = .next t)
    (hr : t.responses = s.responses ++ [r]) : answerTo (loadedKey s) c = r := by
  obtain ⟨t', ht', hresp, -⟩ := commandIsAnsweredByKeyAndCommandAlone s c rest hs hp
  cases ht'.symm.trans hst
  exact List.singleton_inj.mp (List.append_cancel_left (hresp.symm.trans hr))

end

/-- Settles O18: the response seen is the command's answer, and an error answered is an error raised. -/
theorem errorsLeaveNoTrace : Obligations.ErrorsLeaveNoTrace := by
  intro s t c rest e hs hp hst hr
  have hstep := step_of_answerTo_error hs hp (answerTo_of_step hs hp hst hr)
  cases hstep.symm.trans hst
  exact ⟨rfl, rfl, rfl⟩

/-! ### The causes of an error (R141) -/

theorem loadedKey_eq_none_iff (s : State) : loadedKey s = none ↔ s.keyValid = false := by
  cases h : s.keyValid <;> simp [loadedKey, h]

/-- ENC, DEC and ENCIV without a loaded key answer NO_KEY (R147). -/
theorem answerTo_without_key {c : Command}
    (hop : opField c.cmd = 0x2 ∨ opField c.cmd = 0x3 ∨ opField c.cmd = 0x4) :
    answerTo none c = .error .noKey := by
  rcases hop with hop | hop | hop <;> simp [answerTo, hop]

/-- The errors that are about the operands and the mode code of ENC, DEC and ENCIV under a loaded key. -/
def IsOperandError (e : ErrorKind) : Prop := e = .invalidBlock ∨ e = .invalidMode ∨ e = .invalidIv

theorem isOperandError_of_blockAnswer {k : Subkeys} {enc : Bool} {c : Command} {e : ErrorKind}
    (h : blockAnswer k enc c = .error e) : IsOperandError e := by
  unfold blockAnswer at h
  dsimp only at h
  split at h
  · cases h; exact .inl rfl
  split at h
  · cases h; exact .inr (.inl rfl)
  split at h
  · cases h
  split at h
  · cases h; exact .inr (.inr rfl)
  split at h <;> cases h

/-- Under a loaded key ENC, DEC and ENCIV answer no other errors. -/
theorem isOperandError_of_answerTo {c : Command} {k : Key} {e : ErrorKind}
    (hop : opField c.cmd = 0x2 ∨ opField c.cmd = 0x3 ∨ opField c.cmd = 0x4)
    (h : answerTo (some k) c = .error e) : IsOperandError e := by
  rcases hop with hop | hop | hop
  · rw [answerTo_enc hop] at h
    exact isOperandError_of_blockAnswer h
  · rw [answerTo_dec hop] at h
    exact isOperandError_of_blockAnswer h
  · by_cases hd : (argsOf c).dlen.toNat = 8
    · simp [answerTo, hop, hd] at h
    · have he : ErrorKind.invalidIv = e := by simpa [answerTo, hop, hd] using h
      exact .inr (.inr he.symm)

/-- SETKEY answers no error but INVALID_KEY (R142). -/
theorem eq_invalidKey_of_answerTo {c : Command} {key : Option Key} {e : ErrorKind} (hop : opField c.cmd = 0x1)
    (h : answerTo key c = .error e) : e = .invalidKey := by
  by_cases hd : (argsOf c).dlen.toNat = 16
  · simp [answerTo, hop, hd] at h
  · have he : ErrorKind.invalidKey = e := by simpa [answerTo, hop, hd] using h
    exact he.symm

/-- The table of causes by operation: SETKEY; ENC, DEC and ENCIV without a key and with one; a reserved OP. -/
theorem answerTo_error_cases {key : Option Key} {c : Command} {e : ErrorKind} (h : answerTo key c = .error e) :
    (opField c.cmd = 0x1 ∧ e = .invalidKey) ∨
    ((opField c.cmd = 0x2 ∨ opField c.cmd = 0x3 ∨ opField c.cmd = 0x4) ∧
      (key = none ∧ e = .noKey ∨ IsOperandError e)) ∨
    ((opField c.cmd = 0x0 ∨ 0x5 ≤ opField c.cmd) ∧ e = .illegalCmd) := by
  have hops : opField c.cmd = 0x1 ∨ (opField c.cmd = 0x2 ∨ opField c.cmd = 0x3 ∨ opField c.cmd = 0x4) ∨
      (opField c.cmd = 0x0 ∨ 0x5 ≤ opField c.cmd) := by bv_omega
  rcases hops with hop | hop | hop
  · exact .inl ⟨hop, eq_invalidKey_of_answerTo hop h⟩
  · refine .inr (.inl ⟨hop, ?_⟩)
    cases key with
    | none =>
      cases (answerTo_without_key hop).symm.trans h
      exact .inl ⟨rfl, rfl⟩
    | some k => exact .inr (isOperandError_of_answerTo hop h)
  · cases (answerTo_reserved hop key).symm.trans h
    exact .inr (.inr ⟨hop, rfl⟩)

theorem answerTo_eq_illegalCmd_iff (key : Option Key) (c : Command) :
    answerTo key c = .error .illegalCmd ↔ opField c.cmd = 0x0 ∨ 0x5 ≤ opField c.cmd := by
  refine ⟨fun h => ?_, fun hop => answerTo_reserved hop key⟩
  rcases answerTo_error_cases h with ⟨-, he⟩ | ⟨-, ⟨-, he⟩ | he⟩ | ⟨hop, -⟩
  · cases he
  · cases he
  · simp [IsOperandError] at he
  · exact hop

theorem answerTo_eq_noKey_iff (key : Option Key) (c : Command) :
    answerTo key c = .error .noKey ↔
      key = none ∧ (opField c.cmd = 0x2 ∨ opField c.cmd = 0x3 ∨ opField c.cmd = 0x4) := by
  refine ⟨fun h => ?_, fun ⟨hkey, hop⟩ => hkey ▸ answerTo_without_key hop⟩
  rcases answerTo_error_cases h with ⟨-, he⟩ | ⟨hop, ⟨hkey, -⟩ | he⟩ | ⟨-, he⟩
  · cases he
  · exact ⟨hkey, hop⟩
  · simp [IsOperandError] at he
  · cases he

/-- Settles O16: a reserved OP is the one cause of ILLEGAL_CMD. -/
theorem reservedOpAnswersIllegal : Obligations.ReservedOpAnswersIllegal := by
  intro s c rest hs hp
  have hcause := answerTo_eq_illegalCmd_iff (loadedKey s) c
  exact ⟨fun hop => step_of_answerTo_error hs hp (hcause.mpr hop),
    fun t hst hr => hcause.mp (answerTo_of_step hs hp hst hr)⟩

/-- Settles O17: a missing key is the one cause of NO_KEY, and it is found for ENC, DEC and ENCIV only. -/
theorem noKeyUntilSetkey : Obligations.NoKeyUntilSetkey := by
  intro s c rest hs hp
  have hcause := answerTo_eq_noKey_iff (loadedKey s) c
  rw [loadedKey_eq_none_iff] at hcause
  exact ⟨fun hkey hop => step_of_answerTo_error hs hp (hcause.mpr ⟨hkey, hop⟩),
    fun t hst hr => hcause.mp (answerTo_of_step hs hp hst hr)⟩

end Sys2Proof.Proofs
end

section
/-! PROOFS. Reset and hazards (70_reset_and_hazards.md R170 to R177): what a core does when the host does nothing, and
what it does when the host's next action is reset. -/

namespace Sys2Proof.Proofs

open Sys2Proof Sys2Proof.Machine Sys2Proof.Laws

/-- Settles O10: with no command in flight and none at the port, a step has nothing to run. -/
theorem nothingInNothingHappens : Obligations.NothingInNothingHappens :=
  fun s hs hp => step_of_no_input ((idle_iff s).mp hs) hp

theorem takeReset_idle (rest : List HostInput) (s : State) : Idle (takeReset rest s) :=
  (idle_iff _).mpr (takeReset_inFlight rest s)

/-- Settles O12: reset is taken before the command in flight is looked at, and it answers nothing. -/
theorem resetTakesTheKeyWithoutAResponse : Obligations.ResetTakesTheKeyWithoutAResponse :=
  fun s rest hp => ⟨takeReset rest s, step_reset hp, takeReset_keyValid rest s, takeReset_idle rest s,
    takeReset_inFlight rest s, takeReset_responses rest s, takeReset_port rest s⟩

end Sys2Proof.Proofs
end
